-- ==== Sys2Proof/Word.lean ====
section
/-! DEFINITION. The two word types of the block: a 64-bit register value and one byte of the arena. -/

namespace Sys2Proof

/-- A register of the window and a word of the frame bitmap (10_state R20, R29; 00_scope R10). -/
abbrev Word := BitVec 64

/-- One byte of the arena (20_memory R50). -/
abbrev Byte := BitVec 8

end Sys2Proof
end

