-- ==== Sys2Proof/Config.lean ====
section
/-! DEFINITION. What an implementation fixes: the constants of 00_scope R5 and R6, the parameters of R7, and the
free values (opaque constants without a body) that stand for every "any value" of the spec. -/

namespace Sys2Proof.Config

/-- `FRAME` (00_scope R5). -/
abbrev frame : Nat := 4096

/-- `WORD_BITS` and `FRAMES_PER_WORD` (00_scope R5, R6). -/
abbrev wordBits : Nat := 64

/-- `WORD_SPAN`, the bytes of arena one bitmap word tracks (00_scope R6). -/
abbrev wordSpan : Nat := 262144

/-- `PPN_BITS` (00_scope R5). -/
abbrev ppnBits : Nat := 44

/-- The parameters the source leaves open (00_scope R7, decision D4). No step writes them: a statement about every
state is a statement about every value of the parameters. -/
structure Params where
  /-- Lowest byte address of the arena. -/
  arenaBase : Nat
  /-- Length of the arena in bytes. -/
  arenaLen : Nat
  /-- Address of the register window in the host's address space. -/
  mmioBase : Nat
deriving DecidableEq, Repr

/-- The parameters `State.reset` uses: the arena of configuration E1 of 95_test_vectors, and one window address.
DESIGN CHOICE (log 1), unsafe for a statement about `State.reset` alone: the spec leaves all three OPEN. -/
def referenceParams : Params :=
  { arenaBase := 0x80000000, arenaLen := 0x01000000, mmioBase := 0x02000000 }

/-- FREE VALUE (logs 2 and 6). The byte at an address whose contents the spec leaves unspecified: `tag` 0 is power-on
(10_state R40), a later tag is one reset with a command in flight (70_reset_and_hazards R231). -/
opaque unspecifiedByte (tag addr : Nat) : Byte

/-- FREE VALUE (log 4). What draw number `draw` returns for a host read of a byte that the command in flight writes
(20_memory R57: "returns any value"). -/
opaque racedRead (draw addr : Nat) : Byte

/-- FREE VALUE (log 5). Whether, in draw number `draw`, the host's value survives at a byte that both the host and the
command in flight wrote (20_memory R57: "either the host's value or the engine's value"). -/
opaque hostWins (draw addr : Nat) : Bool

/-- FREE VALUE (log 21). What a result register holds for a result that does not fit its 64 bits: the spec states no
value there (00_scope R10 excludes it). -/
opaque unfitResult (result : Nat) : Word

end Sys2Proof.Config
end

