-- ==== Sys2Proof/Syntax.lean ====
section
/-! DEFINITION. The commands of the block, one constructor per row of the opcode table (30_encoding R81), the three
size classes (00_scope R17), and the lines of a host command script (30_encoding R89, R90). -/

namespace Sys2Proof

/-- The size classes C4K, C2M and C1G (00_scope R17; 30_encoding R82). -/
inductive SizeClass where
  | c4k
  | c2m
  | c1g
deriving DecidableEq, Repr

/-- The commands (30_encoding R81). No command has an operand field: operands are the registers OPA and OPB (R84). -/
inductive Instr where
  /-- FBA.INIT (41_frame_allocator R100). -/
  | fbaInit
  /-- FBA.ALLOC.4K (R110). -/
  | fbaAlloc4K
  /-- FBA.ALLOC.2M (R111). -/
  | fbaAlloc2M
  /-- FBA.ALLOC.1G (R112). -/
  | fbaAlloc1G
  /-- FBA.ZALLOC.4K (R114). -/
  | fbaZalloc4K
  /-- FBA.ZALLOC.2M (R115). -/
  | fbaZalloc2M
  /-- FBA.ZALLOC.1G (R116). -/
  | fbaZalloc1G
  /-- FBA.DEALLOC.4K (R118). -/
  | fbaDealloc4K
  /-- FBA.DEALLOC.2M (R119). -/
  | fbaDealloc2M
  /-- FBA.DEALLOC.1G (R120). -/
  | fbaDealloc1G
  /-- PTE.ENC (42_pte_codec R166). -/
  | pteEnc
  /-- PTE.DEC (42_pte_codec R167). -/
  | pteDec
deriving DecidableEq, Repr

/-- The ALLOC command of a size class. -/
def SizeClass.allocInstr : SizeClass → Instr
  | .c4k => .fbaAlloc4K
  | .c2m => .fbaAlloc2M
  | .c1g => .fbaAlloc1G

/-- The ZALLOC command of a size class. -/
def SizeClass.zallocInstr : SizeClass → Instr
  | .c4k => .fbaZalloc4K
  | .c2m => .fbaZalloc2M
  | .c1g => .fbaZalloc1G

/-- The DEALLOC command of a size class. -/
def SizeClass.deallocInstr : SizeClass → Instr
  | .c4k => .fbaDealloc4K
  | .c2m => .fbaDealloc2M
  | .c1g => .fbaDealloc1G

/-- One line of a host command script: the six spellings of 30_encoding R89, then the six pseudo-instructions of R90. -/
inductive Line where
  /-- `fba.init <start>, <end>`. -/
  | init (start stop : Nat)
  /-- `fba.alloc.<c> <count>`. -/
  | alloc (c : SizeClass) (count : Nat)
  /-- `fba.zalloc.<c> <count>`. -/
  | zalloc (c : SizeClass) (count : Nat)
  /-- `fba.dealloc.<c> <address>, <count>`. -/
  | dealloc (c : SizeClass) (address count : Nat)
  /-- `pte.enc <flags>, <ppn>`. -/
  | pteEnc (flags ppn : Nat)
  /-- `pte.dec <word>`. -/
  | pteDec (word : Nat)
  /-- Pseudo: `fba.frame`. -/
  | frame
  /-- Pseudo: `fba.table`. -/
  | table
  /-- Pseudo: `fba.free.4k <a>`. -/
  | free4k (address : Nat)
  /-- Pseudo: `pte.empty`. -/
  | pteEmpty
  /-- Pseudo: `pte.branch <pa>`. -/
  | pteBranch (pa : Nat)
  /-- Pseudo: `pte.leaf <pa>, <flags>`. -/
  | pteLeaf (pa flags : Nat)
deriving DecidableEq, Repr

end Sys2Proof
end

