-- ==== Sys2Proof/WellFormed.lean ====
section
/-! DEFINITION. Well-formedness: the constraints on the parameters (00_scope R7) and what the assembler refuses in a
line of a host script (30_encoding R89, R90). A command has no field, so every `Instr` is well formed (R80). -/

namespace Sys2Proof

/-- 00_scope R7: the arena base is a multiple of 4096, the arena has at least 4096 bytes and ends at or below `2^64`,
the window base is a multiple of 128. -/
abbrev Config.Params.wf (p : Config.Params) : Prop :=
  p.arenaBase % 4096 = 0 ∧ 4096 ≤ p.arenaLen ∧ p.arenaBase + p.arenaLen ≤ 2 ^ 64 ∧ p.mmioBase % 128 = 0

/-- 30_encoding R80: "The word has no register-number field and no immediate field", so nothing can be ill formed in a
command. -/
abbrev Instr.wf (_ : Instr) : Prop := True

/-- Bits 3:1 of a flag byte are R, W and X (42_pte_codec R160): whether one of them is set. -/
abbrev hasAccessFlag (flags : Nat) : Prop := flags / 2 % 8 ≠ 0

/-- What the assembler accepts. A core line needs operands that fit the 64-bit registers OPA and OPB (30_encoding R84;
log 17); a pseudo-instruction needs what the last column of R90 says. -/
def Line.ok : Line → Bool
  | .init start stop => decide (start < 2 ^ 64 ∧ stop < 2 ^ 64)
  | .alloc _ count => decide (count < 2 ^ 64)
  | .zalloc _ count => decide (count < 2 ^ 64)
  | .dealloc _ address count => decide (address < 2 ^ 64 ∧ count < 2 ^ 64)
  | .pteEnc flags ppn => decide (flags < 2 ^ 64 ∧ ppn < 2 ^ 64)
  | .pteDec word => decide (word < 2 ^ 64)
  | .frame => true
  | .table => true
  | .free4k address => decide (address < 2 ^ 64)
  | .pteEmpty => true
  | .pteBranch pa => decide (pa % 4096 = 0 ∧ pa < 2 ^ 56)
  | .pteLeaf pa flags => decide (pa % 4096 = 0 ∧ pa < 2 ^ 56 ∧ hasAccessFlag flags ∧ flags < 2 ^ 64)

/-- A line the assembler does not refuse. -/
abbrev Line.wf (l : Line) : Prop := l.ok = true

end Sys2Proof
end

