-- ==== Sys2Proof/Decode.lean ====
section
/-! DEFINITION. The total decoder of command words (30_encoding R80 to R88), rejecting by name, and the encoder written
from the same table (R81). A command is one 64-bit register value: no byte order and no length enters (R88). -/

namespace Sys2Proof

/-- Why a word is Illegal (30_encoding R87). The block reports every one of them as IllegalCommand (R83). -/
inductive Illegal where
  /-- A bit of RSVD, bits 63:6, is not 0. -/
  | reservedBits
  /-- OP is 0x0, 0x5, 0x6, 0x7 or 0xA to 0xF. -/
  | reservedOp
  /-- SC is 3 for an operation that takes a size class. -/
  | reservedSizeClass
  /-- SC is not 0 for an operation that takes no size class. -/
  | sizeClassNotTaken
deriving DecidableEq, Repr

/-- Field OP, bits 3:0 (30_encoding R80). -/
def opField (v : Word) : BitVec 4 := v.extractLsb' 0 4

/-- Field SC, bits 5:4 (30_encoding R80). -/
def scField (v : Word) : BitVec 2 := v.extractLsb' 4 2

/-- Field RSVD, bits 63:6 (30_encoding R80). -/
def rsvdField (v : Word) : BitVec 58 := v.extractLsb' 6 58

/-- The size class an SC value names (30_encoding R82); 3 is reserved. -/
def sizeClassOf (sc : BitVec 2) : Option SizeClass :=
  match sc.toNat with
  | 0 => some .c4k
  | 1 => some .c2m
  | 2 => some .c1g
  | _ => none

/-- An operation that takes a size class: `(sc <= 2) ? X(sc) : Illegal` (30_encoding R86). -/
def decodeSized (sc : BitVec 2) (instr : SizeClass → Instr) : Except Illegal Instr :=
  match sizeClassOf sc with
  | some c => .ok (instr c)
  | none => .error .reservedSizeClass

/-- An operation that takes none: `(sc == 0) ? X : Illegal` (30_encoding R86). -/
def decodeUnsized (sc : BitVec 2) (instr : Instr) : Except Illegal Instr :=
  if sc = 0#2 then .ok instr else .error .sizeClassNotTaken

/-- The decoder of 30_encoding R86, total on every 64-bit word. -/
def decode (v : Word) : Except Illegal Instr :=
  if rsvdField v = 0#58 then
    match (opField v).toNat with
    | 1 => decodeUnsized (scField v) .fbaInit
    | 2 => decodeSized (scField v) SizeClass.allocInstr
    | 3 => decodeSized (scField v) SizeClass.zallocInstr
    | 4 => decodeSized (scField v) SizeClass.deallocInstr
    | 8 => decodeUnsized (scField v) .pteEnc
    | 9 => decodeUnsized (scField v) .pteDec
    | _ => .error .reservedOp
  else .error .reservedBits

/-- The decoder's answer as an option. -/
def decode? (v : Word) : Option Instr :=
  match decode v with
  | .ok i => some i
  | .error _ => none

/-- Format CMD64 (30_encoding R80): RSVD above SC above OP. -/
def cmd64 (op : BitVec 4) (sc : BitVec 2) : Word := (0#58 ++ sc) ++ op

/-- The encoder: columns OP and SC of 30_encoding R81. -/
def encode : Instr → Word
  | .fbaInit => cmd64 0x1#4 0#2
  | .fbaAlloc4K => cmd64 0x2#4 0#2
  | .fbaAlloc2M => cmd64 0x2#4 1#2
  | .fbaAlloc1G => cmd64 0x2#4 2#2
  | .fbaZalloc4K => cmd64 0x3#4 0#2
  | .fbaZalloc2M => cmd64 0x3#4 1#2
  | .fbaZalloc1G => cmd64 0x3#4 2#2
  | .fbaDealloc4K => cmd64 0x4#4 0#2
  | .fbaDealloc2M => cmd64 0x4#4 1#2
  | .fbaDealloc1G => cmd64 0x4#4 2#2
  | .pteEnc => cmd64 0x8#4 0#2
  | .pteDec => cmd64 0x9#4 0#2

/-- The instruction the decoder reads from a table row's bits `w`. The bits above `nbits` are 0 in `w` itself, and a
command has exactly 64 bits (30_encoding R88), so a number that needs more is no command word (log 16). -/
def decodeTableWord (_nbits w : Nat) : Option Instr :=
  if w < 2 ^ 64 then decode? (BitVec.ofNat 64 w) else none

end Sys2Proof
end

