-- ==== Sys2Proof/Machine/State.lean ====
section
/-! DEFINITION. The state of the block as plain data, the outcomes' reasons, and the state after reset. -/

namespace Sys2Proof.Machine

open Sys2Proof.Config (Params)

/-- The STATUS register's fields (10_state R24). The reserved bits are not stored: they read as 0 and nothing writes
them (`Status.toWord` in Machine/Flags.lean assembles the 64-bit word). -/
structure Status where
  /-- Bit 0. -/
  busy : Bool
  /-- Bit 1. -/
  done : Bool
  /-- Bit 2. -/
  err : Bool
  /-- Bit 3. -/
  initDone : Bool
  /-- Bit 4, sticky. -/
  fatal : Bool
  /-- Bit 5, sticky. -/
  overrun : Bool
  /-- Bits 11:8. -/
  errcode : BitVec 4
deriving DecidableEq, Repr

/-- The named errors (60_exceptions R200). AlreadyMapped and StructuralInconsistency belong to the Page Table Manager:
the taxonomy keeps their codes and the block raises neither. -/
inductive Error where
  | alreadyMapped
  | allocationExhausted
  | doubleFree
  | misalignedAddress
  | structuralInconsistency
  | unsupportedOperation
  | illegalCommand
  | notInitialized
  | alreadyInitialized
  | outOfRange
  | invalidArgument
deriving DecidableEq, Repr

/-- The kind of a PTE (42_pte_codec R164). -/
inductive PteKind where
  | empty
  | leaf
  | branch
deriving DecidableEq, Repr

/-- The slots of the register window (10_state R20). -/
inductive Reg where
  | cmd
  | opa
  | opb
  | status
  | res0
  | res1
  | res2
  | res3
  | cfgBase
  | cfgNFrames
  | cfgNWords
  | cfgBmFrames
  | id
  | reserved
deriving DecidableEq, Repr

/-- Addresses `lo .. hi - 1` whose bytes the spec leaves unspecified, by draw `tag` (logs 2, 6). -/
structure Span where
  lo : Nat
  hi : Nat
  tag : Nat
deriving DecidableEq, Repr

/-- One access of a host agent (00_scope R16): to the register window by host address and width in bytes
(10_state R33 to R36), or to the arena (20_memory R50, R57). -/
inductive Access where
  | regRead (addr width : Nat)
  | regWrite (addr width : Nat) (value : Word)
  | arenaRead (addr len : Nat)
  | arenaWrite (addr : Nat) (bytes : List Byte)
deriving DecidableEq, Repr

/-- One move of the agents (00_scope R16): a host agent's access, the engine's perform step if it is enabled, or a
reset of the block (70_reset_and_hazards R230, R231). -/
inductive Move where
  | host (agent : Nat) (access : Access)
  | engine
  | reset
deriving DecidableEq, Repr

/-- What the last host read returned: MODEL's own, so that a read has an effect a statement can speak of. -/
inductive HostData where
  | nothing
  | register (value : Word)
  | arena (bytes : List Byte)
deriving DecidableEq, Repr

/-- The agent whose access sequence holds the command port (20_memory R61), and whether its CMD write was accepted.
MODEL's own (log 9): the block itself keeps no requester identity (60_exceptions R211). -/
structure PortUse where
  agent : Nat
  accepted : Bool
deriving DecidableEq, Repr

/-- A run of `n` frames from frame index `k`: what a search or a DEALLOC's checks answer. -/
structure FrameRun where
  k : Nat
  n : Nat
deriving DecidableEq, Repr

/-- What the checks of INIT compute (41_frame_allocator R100): `start`, `F`, `W`, `B`. -/
structure InitLayout where
  start : Nat
  frames : Nat
  words : Nat
  bmFrames : Nat
deriving DecidableEq, Repr

/-- The bytes of the arena that some step has given a definite value: strictly rising addresses, no entry 0
(`Memory.wf` in Machine/Memory.lean). -/
abbrev Memory := List Host.Cell

/-- Why the machine stops with a fault. -/
inductive Fault where
  /-- Raised by a host access to the arena that leaves `ARENA_BASE .. ARENA_BASE + ARENA_LEN - 1`: R50 gives no other
  space, so the address does not exist. Safe: the run stops. -/
  | hostOutsideArena
  /-- Raised by an engine access outside the arena, to which the spec gives no meaning (00_scope R13, 20_memory R55): by a
  ZALLOC after an INIT that a host raced on against the boot order (logs 10, 20); else it needs a state that no run
  reaches. Safe: the run stops. -/
  | engineOutsideArena
deriving DecidableEq, Repr

/-- Why the machine gives an action no step. -/
inductive Refusal where
  /-- Raised by `exec` for an instruction that has no meaning yet. Safe. -/
  | notModelled (mnemonic : String)
  /-- Raised by a register-window access that is not 8 bytes wide at an 8-byte-aligned offset 0x00 to 0x78
  (10_state R36: "A model refuses such an access"). Safe. -/
  | registerAccess
  /-- Raised by a host write to a bitmap word after INIT (70_reset_and_hazards R236: "A model refuses such a write").
  Safe. -/
  | bitmapWrite
  /-- Raised by a write to CMD, OPA or OPB, with BUSY 0, of an agent other than the one whose sequence holds the port
  (20_memory R61; 93_implementation_defined entry 24: "A model of several hosts should refuse a run that breaks the
  host mutex"). Safe. -/
  | portInterleaved
deriving DecidableEq, Repr

/-- What a command's checks answer, before anything is written (20_memory R58): a fault of the model, an error to
`raise`, or the way to go on. -/
inductive Plan (α : Type) where
  | fault (f : Fault)
  | raise (e : Error)
  | go (a : α)
deriving DecidableEq, Repr

/-- The state of the block and its surroundings. -/
structure State where
  /-- ARENA_BASE, ARENA_LEN, MMIO_BASE (00_scope R7); no step writes them. -/
  params : Params
  /-- CMD (10_state R21). -/
  cmd : Word
  /-- OPA (10_state R22). -/
  opa : Word
  /-- OPB (10_state R23). -/
  opb : Word
  /-- STATUS (10_state R24). -/
  status : Status
  /-- RES0 (10_state R25). -/
  res0 : Word
  /-- RES1. -/
  res1 : Word
  /-- RES2. -/
  res2 : Word
  /-- RES3. -/
  res3 : Word
  /-- CFG_BASE, `BASE` (10_state R27). -/
  cfgBase : Word
  /-- CFG_NFRAMES, `F`. -/
  cfgNFrames : Word
  /-- CFG_NWORDS, `W`. -/
  cfgNWords : Word
  /-- CFG_BMFRAMES, `B`. -/
  cfgBmFrames : Word
  /-- The arena's bytes that have a definite value (10_state R32). -/
  mem : Memory
  /-- The arena's bytes that have none (10_state R40; 70_reset_and_hazards R231; logs 2, 6). -/
  unspecified : List Span
  /-- MODEL's own: the addresses the host wrote while BUSY was 1 (20_memory R57; log 5). -/
  raced : List Nat
  /-- MODEL's own: the number of the next draw of a free value. -/
  draws : Nat
  /-- MODEL's own: the moves to come, in order (log 7). -/
  agenda : List Move
  /-- MODEL's own: what the last host read returned. -/
  lastRead : HostData
  /-- MODEL's own: who holds the command port (log 9). -/
  portUser : Option PortUse
deriving DecidableEq, Repr

/-- STATUS after reset: all fields 0 (10_state R40). -/
def Status.reset : Status :=
  { busy := false, done := false, err := false, initDone := false, fatal := false, overrun := false, errcode := 0#4 }

/-- The block right after power-on reset, for any parameters (10_state R40): every register 0, no command in flight,
every arena byte unspecified. The model's own fields hold what log 11 names. -/
def State.resetWith (p : Params) : State :=
  { params := p, cmd := 0#64, opa := 0#64, opb := 0#64, status := Status.reset,
    res0 := 0#64, res1 := 0#64, res2 := 0#64, res3 := 0#64,
    cfgBase := 0#64, cfgNFrames := 0#64, cfgNWords := 0#64, cfgBmFrames := 0#64,
    mem := [], unspecified := [{ lo := p.arenaBase, hi := p.arenaBase + p.arenaLen, tag := 0 }],
    raced := [], draws := 1, agenda := [], lastRead := .nothing, portUser := none }

/-- The machine right after reset, at the reference parameters (log 1). -/
def State.reset : State := State.resetWith Config.referenceParams

end Sys2Proof.Machine
end

