-- ==== Sys2Proof/Machine/Flags.lean ====
section
/-! DEFINITION. Every computation of a STATUS bit or a result code: the STATUS word, the error codes, and what an
accepted CMD write, `finish_ok`, `raise` and the end of a perform step do to STATUS. -/

namespace Sys2Proof.Machine

/-- The 64-bit STATUS word (10_state R24): ERRCODE in bits 11:8, OVERRUN, FATAL, INIT_DONE, ERR, DONE, BUSY in bits 5
to 0, zeros in the reserved bits. -/
def Status.toWord (t : Status) : Word :=
  (0#52 ++ t.errcode) ++
    ((((((0#2 ++ BitVec.ofBool t.overrun) ++ BitVec.ofBool t.fatal) ++ BitVec.ofBool t.initDone)
      ++ BitVec.ofBool t.err) ++ BitVec.ofBool t.done) ++ BitVec.ofBool t.busy)

/-- `code(E)` (60_exceptions R200). -/
def Error.code : Error → BitVec 4
  | .alreadyMapped => 1#4
  | .allocationExhausted => 2#4
  | .doubleFree => 3#4
  | .misalignedAddress => 4#4
  | .structuralInconsistency => 5#4
  | .unsupportedOperation => 6#4
  | .illegalCommand => 8#4
  | .notInitialized => 9#4
  | .alreadyInitialized => 10#4
  | .outOfRange => 11#4
  | .invalidArgument => 12#4

/-- STATUS after an accepted CMD write (10_state R33). -/
def Status.accept (t : Status) : Status :=
  { t with busy := true, done := false, err := false, errcode := 0#4 }

/-- STATUS after `finish_ok` (60_exceptions R203). -/
def Status.finishOk (t : Status) : Status :=
  { t with err := false, errcode := 0#4, done := true }

/-- STATUS after `raise E` (60_exceptions R204): FATAL is set by every error but AllocationExhausted. -/
def Status.raised (t : Status) (e : Error) : Status :=
  { t with err := true, errcode := e.code, fatal := t.fatal || decide (e ≠ .allocationExhausted), done := true }

/-- STATUS when a write to CMD, OPA or OPB is dropped (10_state R33, R34). -/
def Status.overran (t : Status) : Status := { t with overrun := true }

/-- The numeric code of a PTE's kind (42_pte_codec R164). -/
def PteKind.code : PteKind → Word
  | .empty => 0#64
  | .leaf => 1#64
  | .branch => 2#64

end Sys2Proof.Machine
end

