-- ==== Sys2Proof/Machine/Memory.lean ====
section
/-! DEFINITION. The arena's bytes: the canonical list of bytes with a definite value, the spans of unspecified bytes,
and the operations on both. An address outside both lists holds 0 (a byte that INIT, ZALLOC or the host wrote 0). -/

namespace Sys2Proof.Machine

/-- The one canonical form of a memory: addresses strictly rising, no entry equal to 0. -/
abbrev Memory.wf (m : Memory) : Prop :=
  m.Pairwise (fun c d => c.1 < d.1) ∧ ∀ c ∈ m, c.2 ≠ 0#8

/-- The canonical form of the unspecified spans: none empty, rising and disjoint, and touching spans differ in tag. -/
abbrev Span.wf (us : List Span) : Prop :=
  us.Pairwise (fun u v => u.hi ≤ v.lo ∧ (u.hi = v.lo → u.tag ≠ v.tag)) ∧ ∀ u ∈ us, u.lo < u.hi

/-- Whether a span holds an address. -/
def Span.has (u : Span) (a : Nat) : Bool := decide (u.lo ≤ a ∧ a < u.hi)

/-- The byte listed at an address. -/
def Memory.find (m : Memory) (a : Nat) : Option Byte :=
  match m with
  | [] => none
  | c :: rest => if c.1 = a then some c.2 else Memory.find rest a

/-- What an address that the memory does not list reads as: a free value in an unspecified span (10_state R40;
70_reset_and_hazards R231), else 0. -/
def unlistedByte (us : List Span) (a : Nat) : Byte :=
  match us.find? (fun u => u.has a) with
  | some u => Config.unspecifiedByte u.tag a
  | none => 0#8

/-- The entries for bytes written from address `a` on: none for a byte 0. -/
def Memory.cells (a : Nat) (bs : List Byte) : Memory :=
  match bs with
  | [] => []
  | b :: rest => if b = 0#8 then Memory.cells (a + 1) rest else (a, b) :: Memory.cells (a + 1) rest

/-- The memory with the bytes `bs` at `a, a + 1, …`. -/
def Memory.put (m : Memory) (a : Nat) (bs : List Byte) : Memory :=
  m.filter (fun c => decide (c.1 < a)) ++ Memory.cells a bs ++ m.filter (fun c => decide (a + bs.length ≤ c.1))

/-- The memory with no entry in `lo .. hi - 1`. -/
def Memory.clear (m : Memory) (lo hi : Nat) : Memory :=
  m.filter (fun c => !decide (lo ≤ c.1 ∧ c.1 < hi))

/-- A span as a list: empty where it holds no address. -/
def Span.piece (u : Span) : List Span := if u.lo < u.hi then [u] else []

/-- What is left of a span when `lo .. hi - 1` is taken out. -/
def Span.minus (lo hi : Nat) (u : Span) : List Span :=
  Span.piece { u with hi := min u.hi lo } ++ Span.piece { u with lo := max u.lo hi }

/-- The spans with `lo .. hi - 1` taken out. -/
def Span.cut (us : List Span) (lo hi : Nat) : List Span :=
  if hi ≤ lo then us else us.flatMap (Span.minus lo hi)

/-- The spans with `lo .. hi - 1` under one new tag. -/
def Span.add (us : List Span) (lo hi tag : Nat) : List Span :=
  if hi ≤ lo then us else
    (Span.cut us lo hi).filter (fun u => decide (u.lo < lo)) ++ [{ lo := lo, hi := hi, tag := tag }]
      ++ (Span.cut us lo hi).filter (fun u => decide (lo ≤ u.lo))

/-- The byte of the arena at an address. -/
def State.arenaByte (s : State) (a : Nat) : Byte :=
  match Memory.find s.mem a with
  | some b => b
  | none => unlistedByte s.unspecified a

/-- Writes the bytes `bs` at `a, a + 1, …`. -/
def State.writeBytes (s : State) (a : Nat) (bs : List Byte) : State :=
  { s with mem := Memory.put s.mem a bs, unspecified := Span.cut s.unspecified a (a + bs.length) }

/-- Writes 0 to every byte of `lo .. hi - 1`. -/
def State.zeroRange (s : State) (lo hi : Nat) : State :=
  { s with mem := Memory.clear s.mem lo hi, unspecified := Span.cut s.unspecified lo hi }

/-- Leaves every byte of `lo .. hi - 1` that is in the arena at an unspecified value, by a fresh draw
(70_reset_and_hazards R231). -/
def State.drawRange (s : State) (lo hi : Nat) : State :=
  let lo' := max lo s.params.arenaBase
  let hi' := min hi (s.params.arenaBase + s.params.arenaLen)
  { s with
    mem := Memory.clear s.mem lo' hi'
    unspecified := Span.add s.unspecified lo' hi' s.draws
    draws := s.draws + 1 }

/-- Whether every byte of `lo .. hi - 1` is in the arena (00_scope R13). -/
def State.inArena (s : State) (lo hi : Nat) : Bool :=
  decide (s.params.arenaBase ≤ lo ∧ hi ≤ s.params.arenaBase + s.params.arenaLen)

/-- `MemRead(addr, n)` (00_scope R13): `n` bytes assembled little-endian (20_memory R54). -/
def State.memRead (s : State) (a n : Nat) : Nat :=
  match n with
  | 0 => 0
  | n + 1 => (s.arenaByte a).toNat + 256 * s.memRead (a + 1) n

/-- The low `n` bytes of a number, least significant first (20_memory R54). -/
def leBytes (n v : Nat) : List Byte :=
  match n with
  | 0 => []
  | n + 1 => BitVec.ofNat 8 v :: leBytes n (v / 256)

/-- `MemWrite(addr, n, v)` (00_scope R13). -/
def State.memWrite (s : State) (a n v : Nat) : State := s.writeBytes a (leBytes n v)

end Sys2Proof.Machine
end

