-- ==== Sys2Proof/Machine/Operands.lean ====
section
/-! DEFINITION. Operands (30_encoding R84), the size-class arithmetic of 00_scope R5 and R6, the CFG values as natural
numbers, and the bit fields of a PTE (42_pte_codec R160 to R165). -/

namespace Sys2Proof.Machine

/-- `reg(OPA)` read as an unsigned number (30_encoding R84; 00_scope R10). -/
def State.opaNat (s : State) : Nat := s.opa.toNat

/-- `reg(OPB)` read as an unsigned number. -/
def State.opbNat (s : State) : Nat := s.opb.toNat

/-- `BASE` (10_state R27). -/
def State.base (s : State) : Nat := s.cfgBase.toNat

/-- `F` (10_state R27). -/
def State.numFrames (s : State) : Nat := s.cfgNFrames.toNat

/-- `W` (10_state R27). -/
def State.numWords (s : State) : Nat := s.cfgNWords.toNat

/-- `B` (10_state R27). -/
def State.bmFrames (s : State) : Nat := s.cfgBmFrames.toNat

/-- The end of the arena, exclusive (00_scope R7). -/
def State.arenaEnd (s : State) : Nat := s.params.arenaBase + s.params.arenaLen

/-- `P(c)`, the 4KiB frames in a frame of the class (00_scope R5). -/
def framesPer : SizeClass → Nat
  | .c4k => 1
  | .c2m => 512
  | .c1g => 262144

/-- `S(c) = P(c) * FRAME` (00_scope R5). -/
def bytesPer (c : SizeClass) : Nat := framesPer c * 4096

/-- `ceil(a / b)` (00_scope R10). -/
def ceilDiv (a b : Nat) : Nat := (a + b - 1) / b

/-- A natural number written to a result register: itself where it fits 64 bits (00_scope R10: "A value is written back
to a 64-bit register only where the pseudocode guarantees it is below `2^64`"), else a free value (log 21). -/
def resultWord (x : Nat) : Word := if x < 2 ^ 64 then BitVec.ofNat 64 x else Config.unfitResult x

/-- `FLAGS = pte[7:0]` (42_pte_codec R161). -/
def pteFlags (w : Word) : BitVec 8 := w.extractLsb' 0 8

/-- PPN0, bits 18:10 (42_pte_codec R160). -/
def ptePpn0 (w : Word) : BitVec 9 := w.extractLsb' 10 9

/-- PPN1, bits 27:19. -/
def ptePpn1 (w : Word) : BitVec 9 := w.extractLsb' 19 9

/-- PPN2, bits 53:28. -/
def ptePpn2 (w : Word) : BitVec 26 := w.extractLsb' 28 26

/-- The reassembled frame number, PPN0 least significant (42_pte_codec R162). -/
def ptePpn (w : Word) : BitVec 44 := (ptePpn2 w ++ ptePpn1 w) ++ ptePpn0 w

/-- `FLAGS_MASK` (42_pte_codec R163). -/
def flagsMask : Word := 0x00000000000000FF#64

/-- `PPN_MASK` (42_pte_codec R163). -/
def ppnMask : Word := 0x003FFFFFFFFFFC00#64

/-- `RSVD_MASK` (42_pte_codec R163). -/
def rsvdMask : Word := 0xFFC0000000000300#64

/-- V, bit 0 (42_pte_codec R160). -/
def pteV (w : Word) : Bool := w.getLsbD 0

/-- R, W, X: bits 3:1. -/
def pteRWX (w : Word) : BitVec 3 := w.extractLsb' 1 3

/-- `kind(pte)` (42_pte_codec R164): it depends on V, R, W and X only. -/
def pteKind (w : Word) : PteKind :=
  if pteV w = false then .empty else if pteRWX w ≠ 0#3 then .leaf else .branch

/-- The word PTE.ENC packs (42_pte_codec R166): `(ppn << 10) | flags`. -/
def ptePack (flags ppn : Nat) : Word := BitVec.ofNat 64 ((ppn <<< 10) ||| flags)

/-- The frame number of a physical address (42_pte_codec R165). -/
def ppnOfAddress (pa : Nat) : Nat := pa >>> 12

/-- The address a PTE's frame number names (42_pte_codec R165). -/
def addressOfPpn (ppn : Nat) : Nat := ppn <<< 12

/-- Where entry `i` of a Page Table lies (42_pte_codec R170). -/
def pteSlot (tableAddr i : Nat) : Nat := tableAddr + 8 * i

end Sys2Proof.Machine
end

