-- ==== Sys2Proof/Machine/Ops.lean ====
section
/-! DEFINITION. The shared operations: the frame bitmap (00_scope R14; 41_frame_allocator R101 to R103), the end of a
command (`finish_ok`, and `raise`, the one way an error is taken: 60_exceptions R203, R204), acceptance of a command
(10_state R33), and the settling of races (20_memory R57). -/

namespace Sys2Proof.Machine

/-! ## Completion -/

/-- `finish_ok(r0, r1, r2, r3)` (60_exceptions R203). -/
def finishOk (r0 r1 r2 r3 : Word) (s : State) : State :=
  { s with res0 := r0, res1 := r1, res2 := r2, res3 := r3, status := s.status.finishOk }

/-- `raise E` (60_exceptions R204): taking an error. No pc, mode or handler is involved (R206). -/
def raise (e : Error) (s : State) : State :=
  { s with res0 := 0#64, res1 := 0#64, res2 := 0#64, res3 := 0#64, status := s.status.raised e }

/-- The end of the perform step: `STATUS.BUSY <- 0` (20_memory R52). Races with this command are over. -/
def endPerform (s : State) : State :=
  { s with status := { s.status with busy := false }, raced := [] }

/-- A command that has ended with `finish_ok` or `raise` in `s`. -/
def conclude (s : State) : Host.Outcome State Fault Refusal := .next (endPerform s)

/-- Runs a command from the answer of its checks: every check comes before the first write (20_memory R58). -/
def runPlan {α : Type} (p : Plan α) (s : State) (go : α → State) : Host.Outcome State Fault Refusal :=
  match p with
  | .fault f => .fault f
  | .raise e => conclude (raise e s)
  | .go a => conclude (go a)

/-- The effect of an accepted write of `v` to CMD (10_state R33). Acceptance does not decode `v`. -/
def acceptCommand (v : Word) (s : State) : State :=
  { s with cmd := v, status := s.status.accept }

/-! ## The frame bitmap -/

/-- `ones(n) = 2^n - 1` (00_scope R11). -/
def ones (n : Nat) : Word := BitVec.ofNat 64 (2 ^ n - 1)

/-- `popcount(x)`. -/
def popcount (x : Word) : Nat := (List.range 64).countP (fun i => x.getLsbD i)

/-- `freecount(x) = 64 - popcount(x)` (00_scope R11). -/
def freecount (x : Word) : Nat := 64 - popcount x

/-- The address of bitmap word `w` (00_scope R14). -/
def State.wordAddr (s : State) (w : Nat) : Nat := s.base + 8 * w

/-- `BM[w]` (00_scope R14). -/
def State.bm (s : State) (w : Nat) : Word := BitVec.ofNat 64 (s.memRead (s.wordAddr w) 8)

/-- `bit(j)` (00_scope R14). -/
def State.bit (s : State) (j : Nat) : Bool := (s.bm (j / 64)).getLsbD (j % 64)

/-- The bits of word `w` that track frames `k .. k+n-1`. -/
def frameMask (k n w : Nat) : Word := ones (min 64 (k + n - 64 * w)) &&& ~~~ ones (min 64 (k - 64 * w))

/-- How many words hold a bit of frames `k .. k+n-1`, counted from word `k div 64`. -/
def wordSpread (k n : Nat) : Nat := if n = 0 then 0 else (k + n - 1) / 64 + 1 - k / 64

/-- The words that hold a bit of frames `k .. k+n-1`, ascending. -/
def wordsOf (k n : Nat) : List Nat := List.range' (k / 64) (wordSpread k n)

/-- Reads and writes whole every word that holds a bit of frames `k .. k+n-1` (41_frame_allocator R101: "Words are read
and written whole"), with `f` of its index and value; the words lie side by side, so their new bytes are one write. -/
def State.updateWords (s : State) (k n : Nat) (f : Nat → Word → Word) : State :=
  if n = 0 then s else
    s.writeBytes (s.wordAddr (k / 64)) ((wordsOf k n).flatMap (fun w => leBytes 8 (f w (s.bm w)).toNat))

/-- `SetFrames(k, n)` (41_frame_allocator R101; log 12). -/
def State.setFrames (s : State) (k n : Nat) : State :=
  s.updateWords k n (fun w x => x ||| frameMask k n w)

/-- `ClearFrames(k, n)` (41_frame_allocator R102; log 12). -/
def State.clearFrames (s : State) (k n : Nat) : State :=
  s.updateWords k n (fun w x => x &&& ~~~ frameMask k n w)

/-- `AllUsed(k, n)` (41_frame_allocator R103), word by word. -/
def State.allUsed (s : State) (k n : Nat) : Bool :=
  (wordsOf k n).all (fun w => s.bm w &&& frameMask k n w == frameMask k n w)

/-- Whether the first `m` bitmap words lie in the arena (20_memory R55). -/
def State.bitmapInArena (s : State) (m : Nat) : Bool := s.inArena s.base (s.base + 8 * m)

/-! ## Races with the host -/

/-- The raced addresses in `lo .. hi - 1`. -/
def State.racedIn (s : State) (lo hi : Nat) : List Nat :=
  s.raced.filter (fun a => decide (lo ≤ a ∧ a < hi))

/-- Puts back the byte `before` held at each of the addresses where the draw lets the host win (20_memory R57). -/
def keepHostBytes (before : State) (addrs : List Nat) (after : State) : State :=
  match addrs with
  | [] => after
  | a :: rest =>
    keepHostBytes before rest
      (if Config.hostWins before.draws a then after.writeBytes a [before.arenaByte a] else after)

/-- Settles the races on `lo .. hi - 1`, which the command has written whole: each byte the host wrote while BUSY was 1
ends with the host's value, which `before` holds, or with the engine's (20_memory R57; log 5). -/
def settleRaces (before : State) (lo hi : Nat) (after : State) : State :=
  if before.racedIn lo hi = [] then after else
    keepHostBytes before (before.racedIn lo hi) { after with draws := before.draws + 1 }

end Sys2Proof.Machine
end

