-- ==== Sys2Proof/Machine/Search.lean ====
section
/-! DEFINITION. The three search paths (41_frame_allocator R104 to R107): ascending word index, then ascending bit
offset, first candidate that passes its test. -/

namespace Sys2Proof.Machine

/-- `((x >> i) & ones(n)) == 0`: the window of `n` bits from bit `i` is free (00_scope R11). -/
def windowFree (x : Word) (n i : Nat) : Bool := (x >>> i) &&& ones n == 0#64

/-- The first free window of `n` bits of a word, `i` from 0 to `64 - n` (41_frame_allocator R105). -/
def firstWindow (x : Word) (n : Nat) : Option Nat := (List.range (65 - n)).find? (windowFree x n)

/-- `SearchInWord(n)`, for `1 <= n <= 64` (41_frame_allocator R105). -/
def State.searchInWord (s : State) (n : Nat) : Option Nat :=
  (List.range s.numWords).findSome? (fun w =>
    if n ≤ freecount (s.bm w) then (firstWindow (s.bm w) n).map (fun i => 64 * w + i) else none)

/-- Words `w .. w+m-1` are all fully free. -/
def State.wordsFree (s : State) (w m : Nat) : Bool := (List.range m).all (fun t => s.bm (w + t) == 0#64)

/-- The test of a multi-word candidate: `q` fully free words, then `r` leading free bits (41_frame_allocator R106). -/
def State.runFits (s : State) (q r w : Nat) : Bool :=
  s.wordsFree w q && (r == 0 || s.bm (w + q) &&& ones r == 0#64)

/-- How many turns the loop `while w + need <= W … w <- w + q` of R106 can make. -/
def multiWordTurns (words q need : Nat) : Nat := if need ≤ words then (words - need) / q + 1 else 0

/-- `SearchMultiWord(n)`, for `n > 64` (41_frame_allocator R106): candidates `0, q, 2q, …`. -/
def State.searchMultiWord (s : State) (n : Nat) : Option Nat :=
  let q := n / 64
  let r := n % 64
  let need := q + (if r > 0 then 1 else 0)
  (List.range (multiWordTurns s.numWords q need)).findSome? (fun t =>
    if s.runFits q r (t * q) then some (64 * (t * q)) else none)

/-- `nw`, the words of a group (41_frame_allocator R107). -/
def groupWords (c : SizeClass) (count : Nat) : Nat := max 1 (ceilDiv (count * framesPer c) 64)

/-- The alignment test of a group candidate: the absolute address is a multiple of `S(c)` (41_frame_allocator R107). -/
def State.groupAligned (s : State) (c : SizeClass) (w : Nat) : Bool :=
  (s.base + w * 262144) % bytesPer c == 0

/-- `SearchGroup(c, count)` (41_frame_allocator R107). -/
def State.searchGroup (s : State) (c : SizeClass) (count : Nat) : Option Nat :=
  (List.range s.numWords).findSome? (fun w =>
    if s.groupAligned c w && decide (w + groupWords c count ≤ s.numWords) && s.wordsFree w (groupWords c count)
    then some (64 * w) else none)

/-- The search path of a request (41_frame_allocator R108). -/
def State.search (s : State) (c : SizeClass) (count : Nat) : Option Nat :=
  match c with
  | .c4k => if count ≤ 64 then s.searchInWord count else s.searchMultiWord count
  | .c2m => s.searchGroup .c2m count
  | .c1g => s.searchGroup .c1g count

end Sys2Proof.Machine
end

