-- ==== Sys2Proof/Machine/Alloc.lean ====
section
/-! DEFINITION. FBA.ALLOC in the three size classes (41_frame_allocator R108, R110 to R112). -/

namespace Sys2Proof.Machine

/-- The checks and the search of `FrameAlloc(c)`, in their order (41_frame_allocator R108; 60_exceptions R202). The
fault needs a CFG register that no run gives (log 10). DESIGN CHOICE (log 20): where an INIT raced on its words has left
a padding bit or a bitmap frame's bit 0 (20_memory R57), the search takes it for a free frame, as the pseudocode reads. -/
def planAlloc (c : SizeClass) (s : State) : Plan FrameRun :=
  if s.status.initDone = false then .raise .notInitialized
  else if s.opaNat = 0 then .raise .invalidArgument
  else if c = .c1g ∧ s.opaNat = 1 then .raise .unsupportedOperation
  else if s.bitmapInArena s.numWords = false then .fault .engineOutsideArena
  else match s.search c s.opaNat with
    | none => .raise .allocationExhausted
    | some k => .go { k := k, n := s.opaNat * framesPer c }

/-- The address of a run's first frame: `BASE + 4096*k` (41_frame_allocator R108). -/
def State.runAddr (s : State) (r : FrameRun) : Nat := s.base + 4096 * r.k

/-- `SetFrames(k, n)`, then `finish_ok(BASE + 4096*k, n, 0, 0)` (41_frame_allocator R108, R110). DESIGN CHOICE (logs 20,
21): an address of `2^64` or more, which only a padding frame after a raced INIT can have, leaves RES0 a free value. -/
def applyAlloc (s : State) (r : FrameRun) : State :=
  finishOk (resultWord (s.runAddr r)) (resultWord r.n) 0#64 0#64 (s.setFrames r.k r.n)

/-- FBA.ALLOC.4K (41_frame_allocator R110). -/
def execFbaAlloc4K (s : State) : Host.Outcome State Fault Refusal := runPlan (planAlloc .c4k s) s (applyAlloc s)

/-- FBA.ALLOC.2M (41_frame_allocator R111). -/
def execFbaAlloc2M (s : State) : Host.Outcome State Fault Refusal := runPlan (planAlloc .c2m s) s (applyAlloc s)

/-- FBA.ALLOC.1G (41_frame_allocator R112). -/
def execFbaAlloc1G (s : State) : Host.Outcome State Fault Refusal := runPlan (planAlloc .c1g s) s (applyAlloc s)

end Sys2Proof.Machine
end

