-- ==== Sys2Proof/Machine/Dealloc.lean ====
section
/-! DEFINITION. FBA.DEALLOC in the three size classes (41_frame_allocator R117 to R120). -/

namespace Sys2Proof.Machine

/-- `k = (a - BASE) div 4096` (41_frame_allocator R117). -/
def State.freeIndex (s : State) : Nat := (s.opaNat - s.base) / 4096

/-- The checks of `FrameFree(c)`, in their order (41_frame_allocator R117; 60_exceptions R202). The fault needs a
CFG register that no run gives (log 10). -/
def planFree (c : SizeClass) (s : State) : Plan FrameRun :=
  if s.status.initDone = false then .raise .notInitialized
  else if s.opbNat = 0 then .raise .invalidArgument
  else if c = .c1g ∧ s.opbNat = 1 then .raise .unsupportedOperation
  else if s.opaNat % bytesPer c ≠ 0 then .raise .misalignedAddress
  else if s.opaNat < s.base then .raise .outOfRange
  else if s.freeIndex < s.bmFrames ∨ s.numFrames < s.freeIndex + s.opbNat * framesPer c then .raise .outOfRange
  else if s.bitmapInArena ((s.freeIndex + s.opbNat * framesPer c - 1) / 64 + 1) = false then .fault .engineOutsideArena
  else if s.allUsed s.freeIndex (s.opbNat * framesPer c) = false then .raise .doubleFree
  else .go { k := s.freeIndex, n := s.opbNat * framesPer c }

/-- `ClearFrames(k, n)`, then `finish_ok(0, n, 0, 0)` (41_frame_allocator R117, R118). -/
def applyFree (s : State) (r : FrameRun) : State :=
  finishOk 0#64 (BitVec.ofNat 64 r.n) 0#64 0#64 (s.clearFrames r.k r.n)

/-- FBA.DEALLOC.4K (41_frame_allocator R118). -/
def execFbaDealloc4K (s : State) : Host.Outcome State Fault Refusal := runPlan (planFree .c4k s) s (applyFree s)

/-- FBA.DEALLOC.2M (41_frame_allocator R119). -/
def execFbaDealloc2M (s : State) : Host.Outcome State Fault Refusal := runPlan (planFree .c2m s) s (applyFree s)

/-- FBA.DEALLOC.1G (41_frame_allocator R120). -/
def execFbaDealloc1G (s : State) : Host.Outcome State Fault Refusal := runPlan (planFree .c1g s) s (applyFree s)

end Sys2Proof.Machine
end

