-- ==== Sys2Proof/Machine/Init.lean ====
section
/-! DEFINITION. FBA.INIT (41_frame_allocator R100). -/

namespace Sys2Proof.Machine

/-- `F`, `W`, `B` for a region `[start, stop)` (41_frame_allocator R100). -/
def initLayout (start stop : Nat) : InitLayout :=
  { start := start
    frames := (stop - start) / 4096
    words := ceilDiv ((stop - start) / 4096) 64
    bmFrames := ceilDiv (8 * ceilDiv ((stop - start) / 4096) 64) 4096 }

/-- The checks of FBA.INIT, in their order (41_frame_allocator R100; 60_exceptions R202). -/
def planInit (s : State) : Plan InitLayout :=
  if s.status.initDone then .raise .alreadyInitialized
  else if s.opbNat < s.opaNat + 4096 then .raise .invalidArgument
  else if s.opaNat % 4096 ≠ 0 then .raise .misalignedAddress
  else if s.opaNat < s.params.arenaBase ∨ s.arenaEnd < s.opbNat then .raise .outOfRange
  else .go (initLayout s.opaNat s.opbNat)

/-- Writes the four CFG registers (10_state R27). -/
def writeCfg (p : InitLayout) (s : State) : State :=
  { s with
    cfgBase := BitVec.ofNat 64 p.start, cfgNFrames := BitVec.ofNat 64 p.frames
    cfgNWords := BitVec.ofNat 64 p.words, cfgBmFrames := BitVec.ofNat 64 p.bmFrames }

/-- The bitmap FBA.INIT writes: `W` zero words, the bitmap's own frames and the padding bits used
(41_frame_allocator R100). `s` holds the CFG registers already, so that `BM` is at `BASE = start`. -/
def layBitmap (p : InitLayout) (s : State) : State :=
  ((s.zeroRange p.start (p.start + 8 * p.words)).setFrames 0 p.bmFrames).setFrames p.frames (64 * p.words - p.frames)

/-- `STATUS.INIT_DONE <- 1` (41_frame_allocator R100). -/
def setInitDone (s : State) : State := { s with status := { s.status with initDone := true } }

/-- What FBA.INIT does once its checks have passed (41_frame_allocator R100). -/
def applyInit (s : State) (p : InitLayout) : State :=
  finishOk (BitVec.ofNat 64 p.frames) (BitVec.ofNat 64 p.words) (BitVec.ofNat 64 p.bmFrames) 0#64
    (setInitDone (settleRaces s p.start (p.start + 8 * p.words) (layBitmap p (writeCfg p s))))

/-- FBA.INIT (41_frame_allocator R100). -/
def execFbaInit (s : State) : Host.Outcome State Fault Refusal := runPlan (planInit s) s (applyInit s)

end Sys2Proof.Machine
end

