-- ==== Sys2Proof/Machine/Pte.lean ====
section
/-! DEFINITION. PTE.ENC and PTE.DEC (42_pte_codec R166 to R169). -/

namespace Sys2Proof.Machine

/-- The checks of PTE.ENC (42_pte_codec R166): the answer is the packed word. -/
def planEnc (s : State) : Plan Word :=
  if 2 ^ 8 ≤ s.opaNat then .raise .invalidArgument
  else if 2 ^ 44 ≤ s.opbNat then .raise .invalidArgument
  else .go (ptePack s.opaNat s.opbNat)

/-- `finish_ok(word, kind(word), 0, 0)` (42_pte_codec R166). -/
def applyEnc (s : State) (word : Word) : State := finishOk word (pteKind word).code 0#64 0#64 s

/-- `finish_ok(word[7:0], word[53:10], kind(word), word & RSVD_MASK)` (42_pte_codec R167). -/
def applyDec (s : State) (word : Word) : State :=
  finishOk ((pteFlags word).setWidth 64) ((ptePpn word).setWidth 64) (pteKind word).code (word &&& rsvdMask) s

/-- PTE.ENC (42_pte_codec R166). -/
def execPteEnc (s : State) : Host.Outcome State Fault Refusal := runPlan (planEnc s) s (applyEnc s)

/-- PTE.DEC (42_pte_codec R167): every word decodes. -/
def execPteDec (s : State) : Host.Outcome State Fault Refusal := conclude (applyDec s s.opa)

end Sys2Proof.Machine
end

