-- ==== Sys2Proof/Machine/Zalloc.lean ====
section
/-! DEFINITION. FBA.ZALLOC in the three size classes (41_frame_allocator R113 to R116). -/

namespace Sys2Proof.Machine

/-- The end of the range `ZeroFill` writes: `a + 4096*n` (41_frame_allocator R113). -/
def State.runEnd (s : State) (r : FrameRun) : Nat := s.runAddr r + 4096 * r.n

/-- The checks of ZALLOC: those of ALLOC, and that the fill stays in the arena. DESIGN CHOICE (logs 10, 20): a run reaches
this fault only where an INIT raced on its words (20_memory R57; the boot order 70_reset_and_hazards R233 forbids it) has
left a padding bit 0 that names a frame past the arena; the spec gives a fill there no meaning (00_scope R13). -/
def planZalloc (c : SizeClass) (s : State) : Plan FrameRun :=
  match planAlloc c s with
  | .fault f => .fault f
  | .raise e => .raise e
  | .go r => if s.inArena (s.runAddr r) (s.runEnd r) = false then .fault .engineOutsideArena else .go r

/-- `ZeroFill(a, n)` (41_frame_allocator R113), with the races on the filled bytes settled (20_memory R57). `before` is
the state the perform step started in. DESIGN CHOICE (log 20): after a raced INIT the frames may lie past `F` or hold the
bitmap; they are filled all the same, after `SetFrames`, as the pseudocode of R114 reads. -/
def zeroFill (before : State) (r : FrameRun) (s : State) : State :=
  settleRaces before (before.runAddr r) (before.runEnd r) (s.zeroRange (before.runAddr r) (before.runEnd r))

/-- `FrameAlloc(c)`, `ZeroFill(a, n)`, `finish_ok(a, n, 0, 0)` (41_frame_allocator R114). -/
def applyZalloc (s : State) (r : FrameRun) : State :=
  finishOk (resultWord (s.runAddr r)) (resultWord r.n) 0#64 0#64 (zeroFill s r (s.setFrames r.k r.n))

/-- FBA.ZALLOC.4K (41_frame_allocator R114). -/
def execFbaZalloc4K (s : State) : Host.Outcome State Fault Refusal := runPlan (planZalloc .c4k s) s (applyZalloc s)

/-- FBA.ZALLOC.2M (41_frame_allocator R115). -/
def execFbaZalloc2M (s : State) : Host.Outcome State Fault Refusal := runPlan (planZalloc .c2m s) s (applyZalloc s)

/-- FBA.ZALLOC.1G (41_frame_allocator R116). -/
def execFbaZalloc1G (s : State) : Host.Outcome State Fault Refusal := runPlan (planZalloc .c1g s) s (applyZalloc s)

end Sys2Proof.Machine
end

