-- ==== Sys2Proof/Machine/Dispatch.lean ====
section
/-! DEFINITION. `exec`: the effect of performing one command, one arm per command of 30_encoding R81. -/

namespace Sys2Proof.Machine

def exec (i : Instr) (s : State) : Host.Outcome State Fault Refusal :=
  match i with
  | .fbaInit => Sys2Proof.Machine.execFbaInit s
  | .fbaAlloc4K => Sys2Proof.Machine.execFbaAlloc4K s
  | .fbaAlloc2M => Sys2Proof.Machine.execFbaAlloc2M s
  | .fbaAlloc1G => Sys2Proof.Machine.execFbaAlloc1G s
  | .fbaZalloc4K => Sys2Proof.Machine.execFbaZalloc4K s
  | .fbaZalloc2M => Sys2Proof.Machine.execFbaZalloc2M s
  | .fbaZalloc1G => Sys2Proof.Machine.execFbaZalloc1G s
  | .fbaDealloc4K => Sys2Proof.Machine.execFbaDealloc4K s
  | .fbaDealloc2M => Sys2Proof.Machine.execFbaDealloc2M s
  | .fbaDealloc1G => Sys2Proof.Machine.execFbaDealloc1G s
  | .pteEnc => Sys2Proof.Machine.execPteEnc s
  | .pteDec => Sys2Proof.Machine.execPteDec s

end Sys2Proof.Machine
end

