-- ==== Sys2Proof/Machine/Engine.lean ====
section
/-! DEFINITION. The engine's one step, perform (20_memory R52), and the arena bytes the command in flight will write
(20_memory R57). -/

namespace Sys2Proof.Machine

/-- The engine's perform step (20_memory R52): decode CMD, then the command's rule; an illegal word ends with
`raise IllegalCommand` (30_encoding R83). -/
def perform (s : State) : Host.Outcome State Fault Refusal :=
  match decode s.cmd with
  | .error _ => conclude (raise .illegalCommand s)
  | .ok i => exec i s

/-- A range of addresses `lo .. hi - 1`. -/
abbrev Range := Nat × Nat

/-- Whether a range holds an address. -/
def rangeHas (r : Range) (a : Nat) : Bool := decide (r.1 ≤ a ∧ a < r.2)

/-- The bytes of the bitmap words that hold frames `k .. k+n-1` (words are written whole: 41_frame_allocator R101). -/
def State.runWordRange (s : State) (r : FrameRun) : Range :=
  (s.wordAddr (r.k / 64), s.wordAddr (r.k / 64) + 8 * wordSpread r.k r.n)

/-- What a plan that goes on writes; a command that raises writes nothing (20_memory R58). -/
def planWrites {α : Type} (p : Plan α) (f : α → List Range) : List Range :=
  match p with
  | .go a => f a
  | .raise _ => []
  | .fault _ => []

/-- The arena bytes command `i` writes when it is performed in `s` (20_memory R57: bitmap words, zero-filled frames,
INIT's words; log 13). -/
def writesOf (i : Instr) (s : State) : List Range :=
  match i with
  | .fbaInit => planWrites (planInit s) (fun p => [(p.start, p.start + 8 * p.words)])
  | .fbaAlloc4K => planWrites (planAlloc .c4k s) (fun r => [s.runWordRange r])
  | .fbaAlloc2M => planWrites (planAlloc .c2m s) (fun r => [s.runWordRange r])
  | .fbaAlloc1G => planWrites (planAlloc .c1g s) (fun r => [s.runWordRange r])
  | .fbaZalloc4K => planWrites (planZalloc .c4k s) (fun r => [s.runWordRange r, (s.runAddr r, s.runEnd r)])
  | .fbaZalloc2M => planWrites (planZalloc .c2m s) (fun r => [s.runWordRange r, (s.runAddr r, s.runEnd r)])
  | .fbaZalloc1G => planWrites (planZalloc .c1g s) (fun r => [s.runWordRange r, (s.runAddr r, s.runEnd r)])
  | .fbaDealloc4K => planWrites (planFree .c4k s) (fun r => [s.runWordRange r])
  | .fbaDealloc2M => planWrites (planFree .c2m s) (fun r => [s.runWordRange r])
  | .fbaDealloc1G => planWrites (planFree .c1g s) (fun r => [s.runWordRange r])
  | .pteEnc => []
  | .pteDec => []

/-- The arena bytes the command in flight writes: none while BUSY is 0. -/
def inFlightWrites (s : State) : List Range :=
  if s.status.busy then
    match decode s.cmd with
    | .ok i => writesOf i s
    | .error _ => []
  else []

end Sys2Proof.Machine
end

