-- ==== Sys2Proof/Machine/Host.lean ====
section
/-! DEFINITION. The host side: register-window accesses (10_state R20 to R28, R33 to R36), arena accesses
(20_memory R50, R57; 70_reset_and_hazards R236), and reset (70_reset_and_hazards R230, R231). -/

namespace Sys2Proof.Machine

/-! ## The register window -/

/-- The slot at an index of the window, offset `8 * index` (10_state R20). -/
def slotAt (index : Nat) : Reg :=
  match index with
  | 0 => .cmd
  | 1 => .opa
  | 2 => .opb
  | 3 => .status
  | 4 => .res0
  | 5 => .res1
  | 6 => .res2
  | 7 => .res3
  | 8 => .cfgBase
  | 9 => .cfgNFrames
  | 10 => .cfgNWords
  | 11 => .cfgBmFrames
  | 12 => .id
  | _ => .reserved

/-- The slot an access reaches: only 8-byte accesses at 8-byte-aligned offsets 0x00 to 0x78 of the window have a
meaning (10_state R36). -/
def State.slotOf (s : State) (addr width : Nat) : Option Reg :=
  if width = 8 ∧ s.params.mmioBase ≤ addr ∧ addr < s.params.mmioBase + 128 ∧ (addr - s.params.mmioBase) % 8 = 0
  then some (slotAt ((addr - s.params.mmioBase) / 8)) else none

/-- The one read of a register (10_state R20 to R28, R35): ID reads 1, the reserved slots read 0. -/
def State.readReg (s : State) : Reg → Word
  | .cmd => s.cmd
  | .opa => s.opa
  | .opb => s.opb
  | .status => s.status.toWord
  | .res0 => s.res0
  | .res1 => s.res1
  | .res2 => s.res2
  | .res3 => s.res3
  | .cfgBase => s.cfgBase
  | .cfgNFrames => s.cfgNFrames
  | .cfgNWords => s.cfgNWords
  | .cfgBmFrames => s.cfgBmFrames
  | .id => 0x0000000000000001#64
  | .reserved => 0#64

/-- Whether a write to CMD, OPA or OPB by `agent`, with BUSY 0, breaks into another agent's sequence (20_memory R61;
log 9). -/
def State.portTaken (s : State) (agent : Nat) : Bool :=
  match s.portUser with
  | some u => decide (u.agent ≠ agent)
  | none => false

/-- Records who holds the command port (log 9). -/
def State.holdPort (s : State) (agent : Nat) (accepted : Bool) : State :=
  { s with portUser := some { agent := agent, accepted := accepted } }

/-- The effect of a write of `v` to OPA that is not dropped (10_state R34). -/
def State.takeOpa (s : State) (v : Word) : State := { s with opa := v }

/-- The effect of a write of `v` to OPB that is not dropped (10_state R34). -/
def State.takeOpb (s : State) (v : Word) : State := { s with opb := v }

/-- `STATUS.OVERRUN <- 1`: all that a dropped write does (10_state R33, R34). -/
def State.noteOverrun (s : State) : State := { s with status := s.status.overran }

/-- A write to CMD, OPA or OPB: dropped with OVERRUN set while BUSY is 1 (10_state R33, R34), refused where it breaks
the host mutex (20_memory R61), else `take`. -/
def portWrite (agent : Nat) (accepted : Bool) (take : State → State) (s : State) : Host.Outcome State Fault Refusal :=
  if s.status.busy then .next s.noteOverrun
  else if s.portTaken agent then .refused .portInterleaved
  else .next ((take s).holdPort agent accepted)

/-- A host write to a register (10_state R28, R33, R34). -/
def writeReg (agent : Nat) (r : Reg) (v : Word) (s : State) : Host.Outcome State Fault Refusal :=
  match r with
  | .cmd => portWrite agent true (acceptCommand v) s
  | .opa => portWrite agent false (fun t => t.takeOpa v) s
  | .opb => portWrite agent false (fun t => t.takeOpb v) s
  | .status => .next s
  | .res0 => .next s
  | .res1 => .next s
  | .res2 => .next s
  | .res3 => .next s
  | .cfgBase => .next s
  | .cfgNFrames => .next s
  | .cfgNWords => .next s
  | .cfgBmFrames => .next s
  | .id => .next s
  | .reserved => .next s

/-- Who holds the port after `agent` has read register `r`: a holder that reads STATUS with BUSY 0 and DONE 1 after its
accepted CMD write has seen its completion (20_memory R60 item 3, R61; log 9). -/
def State.portAfterRead (s : State) (agent : Nat) (r : Reg) : Option PortUse :=
  if r = .status ∧ s.status.busy = false ∧ s.status.done = true ∧ s.portUser = some { agent := agent, accepted := true }
  then none else s.portUser

/-- A register read has returned `v`; `port` is who holds the port now (10_state R35: no other side effect). -/
def State.returnRegister (s : State) (v : Word) (port : Option PortUse) : State :=
  { s with lastRead := .register v, portUser := port }

/-- A host access to the register window (10_state R33 to R36). -/
def regAccess (agent : Nat) (addr width : Nat) (write : Option Word) (s : State) : Host.Outcome State Fault Refusal :=
  match s.slotOf addr width with
  | none => .refused .registerAccess
  | some r =>
    match write with
    | some v => writeReg agent r v s
    | none => .next (s.returnRegister (s.readReg r) (s.portAfterRead agent r))

/-! ## The arena -/

/-- Whether the command in flight writes the byte at an address (20_memory R57). -/
def State.contended (s : State) (a : Nat) : Bool := (inFlightWrites s).any (fun r => rangeHas r a)

/-- What a host read of one byte returns: any value while the command in flight writes that byte (20_memory R57). -/
def State.hostByte (s : State) (a : Nat) : Byte :=
  if s.contended a then Config.racedRead s.draws a else s.arenaByte a

/-- The draws after a host read: one more if a byte of it is contended (log 4). -/
def State.drawsAfterRead (s : State) (addr len : Nat) : Nat :=
  if (List.range' addr len).any s.contended then s.draws + 1 else s.draws

/-- An arena read has returned `bytes` (20_memory R59: no other side effect). -/
def State.returnBytes (s : State) (bytes : List Byte) (draws : Nat) : State :=
  { s with lastRead := .arena bytes, draws := draws }

/-- A host read of `len` bytes of the arena (20_memory R57, R59). -/
def arenaRead (addr len : Nat) (s : State) : Host.Outcome State Fault Refusal :=
  if s.inArena addr (addr + len) = false then .fault .hostOutsideArena
  else .next (s.returnBytes ((List.range' addr len).map s.hostByte) (s.drawsAfterRead addr len))

/-- Whether a write to `lo .. hi - 1` touches a bitmap word after INIT (70_reset_and_hazards R236). -/
def State.hitsBitmap (s : State) (lo hi : Nat) : Bool :=
  s.status.initDone && decide (max lo s.base < min hi (s.base + 8 * s.numWords))

/-- The raced addresses after a host write to `lo .. lo + len - 1` (20_memory R57; log 5). -/
def State.racedAfter (s : State) (lo len : Nat) : List Nat :=
  if s.status.busy then s.raced ++ (List.range' lo len).filter (fun a => decide (a ∉ s.raced)) else s.raced

/-- Records the addresses of a host write that may race with the command in flight (log 5). -/
def State.recordRaces (s : State) (lo len : Nat) : State := { s with raced := s.racedAfter lo len }

/-- A host write to the arena (20_memory R57; 70_reset_and_hazards R236). -/
def arenaWrite (addr : Nat) (bytes : List Byte) (s : State) : Host.Outcome State Fault Refusal :=
  if s.inArena addr (addr + bytes.length) = false then .fault .hostOutsideArena
  else if s.hitsBitmap addr (addr + bytes.length) then .refused .bitmapWrite
  else .next ((s.recordRaces addr bytes.length).writeBytes addr bytes)

/-- A host access. -/
def hostAccess (agent : Nat) (a : Access) (s : State) : Host.Outcome State Fault Refusal :=
  match a with
  | .regRead addr width => regAccess agent addr width none s
  | .regWrite addr width v => regAccess agent addr width (some v) s
  | .arenaRead addr len => arenaRead addr len s
  | .arenaWrite addr bytes => arenaWrite addr bytes s

/-! ## Reset -/

/-- What a reset with a command in flight does to the arena: every byte of the managed region, and of `[OPA, OPB)` for
an INIT, holds any value (70_reset_and_hazards R231). -/
def abandon (s : State) : State :=
  let t := s.drawRange s.base (s.base + 4096 * s.numFrames)
  match decode s.cmd with
  | .ok .fbaInit => t.drawRange s.opaNat s.opbNat
  | _ => t

/-- Every register takes its reset value, and no command, race or port sequence goes on (10_state R40; logs 9, 11). -/
def clearRegisters (s : State) : State :=
  { s with
    cmd := 0#64, opa := 0#64, opb := 0#64, status := Status.reset
    res0 := 0#64, res1 := 0#64, res2 := 0#64, res3 := 0#64
    cfgBase := 0#64, cfgNFrames := 0#64, cfgNWords := 0#64, cfgBmFrames := 0#64
    raced := [], portUser := none }

/-- Reset (70_reset_and_hazards R230, R231): the registers take their reset values; the arena is not written, but for
the bytes a command in flight may have left at any value. -/
def blockReset (s : State) : State := clearRegisters (if s.status.busy then abandon s else s)

/-! ## Whose move it is -/

/-- The engine's move where it comes up: perform if BUSY is 1, else nothing (20_memory R52). -/
def engineMove (s : State) : Host.Outcome State Fault Refusal := if s.status.busy then perform s else .next s

/-- The state with the moves to come replaced: how a step takes the head of the agenda off (log 7). -/
def State.withAgenda (s : State) (moves : List Move) : State := { s with agenda := moves }

/-- The next move (log 7): the head of the agenda; with an empty agenda the engine's (20_memory R53). -/
def advance (s : State) : Host.Outcome State Fault Refusal :=
  match s.agenda with
  | [] => engineMove s
  | .engine :: rest => engineMove (s.withAgenda rest)
  | .reset :: rest => .next (blockReset (s.withAgenda rest))
  | .host agent a :: rest => hostAccess agent a (s.withAgenda rest)

end Sys2Proof.Machine
end

