-- ==== Sys2Proof/Machine/Step.lean ====
section
/-! DEFINITION. One step of the whole machine, and how a command word is put where the next step performs it. -/

namespace Sys2Proof.Machine

/-- One step: the next move of the agenda, or the engine's (log 7). -/
def step (s : State) : Host.Outcome State Fault Refusal := advance s

/-- The state in which the command word `w` has just been accepted (10_state R33) and the engine moves next. The block
fetches nothing (10_state R38): this stands for the host's CMD write (logs 7, 16). -/
def State.withFetchWord (s : State) (_nbits w : Nat) : State :=
  acceptCommand (BitVec.ofNat 64 w) (s.withAgenda [])

end Sys2Proof.Machine
end

