-- ==== Sys2Proof/Machine/Script.lean ====
section
/-! DEFINITION. Host command scripts: the expansion of a pseudo-instruction into one command (30_encoding R90), of a
line into register accesses (R91), and of a PTE store into arena bytes (42_pte_codec R170). -/

namespace Sys2Proof.Machine

/-- The core line a pseudo-instruction stands for (30_encoding R90); a core line stands for itself. V is flag bit 0
(42_pte_codec R161). -/
def coreLine : Line → Line
  | .init start stop => .init start stop
  | .alloc c count => .alloc c count
  | .zalloc c count => .zalloc c count
  | .dealloc c address count => .dealloc c address count
  | .pteEnc flags ppn => .pteEnc flags ppn
  | .pteDec word => .pteDec word
  | .frame => .alloc .c4k 1
  | .table => .zalloc .c4k 1
  | .free4k address => .dealloc .c4k address 1
  | .pteEmpty => .pteEnc 0 0
  | .pteBranch pa => .pteEnc 1 (ppnOfAddress pa)
  | .pteLeaf pa flags => .pteEnc (flags ||| 1) (ppnOfAddress pa)

/-- The command of a line (30_encoding R81, R89, R90). -/
def lineInstr : Line → Instr
  | .init _ _ => .fbaInit
  | .alloc c _ => c.allocInstr
  | .zalloc c _ => c.zallocInstr
  | .dealloc c _ _ => c.deallocInstr
  | .pteEnc _ _ => .pteEnc
  | .pteDec _ => .pteDec
  | .frame => .fbaAlloc4K
  | .table => .fbaZalloc4K
  | .free4k _ => .fbaDealloc4K
  | .pteEmpty => .pteEnc
  | .pteBranch _ => .pteEnc
  | .pteLeaf _ _ => .pteEnc

/-- Operand A of a line: every command takes one (30_encoding R84). -/
def lineOperandA (l : Line) : Nat :=
  match coreLine l with
  | .init start _ => start
  | .alloc _ count => count
  | .zalloc _ count => count
  | .dealloc _ address _ => address
  | .pteEnc flags _ => flags
  | .pteDec word => word
  | _ => 0

/-- Operand B of a line, where the command takes one (30_encoding R84). -/
def lineOperandB (l : Line) : Option Nat :=
  match coreLine l with
  | .init _ stop => some stop
  | .dealloc _ _ count => some count
  | .pteEnc _ ppn => some ppn
  | _ => none

/-- A 64-bit store of the host to the window slot at an offset. -/
def slotStore (p : Config.Params) (agent offset : Nat) (v : Word) : Move :=
  .host agent (.regWrite (p.mmioBase + offset) 8 v)

/-- A 64-bit load of STATUS (10_state R20: offset 0x18). -/
def statusPoll (p : Config.Params) (agent : Nat) : Move := .host agent (.regRead (p.mmioBase + 0x18) 8)

/-- The moves before the wait loop of 30_encoding R91: OPA, OPB where the command takes it, CMD. -/
def lineStores (p : Config.Params) (agent : Nat) (l : Line) : List Move :=
  [slotStore p agent 0x08 (BitVec.ofNat 64 (lineOperandA l))]
    ++ (match lineOperandB l with
        | some b => [slotStore p agent 0x10 (BitVec.ofNat 64 b)]
        | none => [])
    ++ [slotStore p agent 0x00 (encode (lineInstr l))]

/-- The moves one line stands for (30_encoding R91): the stores, the wait loop with `polls` loads of STATUS before the
engine has performed, the perform step, and the load that ends the loop. -/
def lineMoves (p : Config.Params) (agent polls : Nat) (l : Line) : List Move :=
  lineStores p agent l ++ List.replicate polls (statusPoll p agent) ++ [.engine, statusPoll p agent]

/-- The host's store of a PTE word into entry `i` of a table (42_pte_codec R170), little-endian (20_memory R54). -/
def pteStore (tableAddr i : Nat) (word : Word) : Access :=
  .arenaWrite (pteSlot tableAddr i) (leBytes 8 word.toNat)

end Sys2Proof.Machine
end

