-- ==== Sys2Proof/Safety.lean ====
section
/-! DEFINITION. The terms that claims use: the invariants of the machine, how a command succeeds or fails and what it
leaves alone, first fit in the words of 41_frame_allocator R104 to R107, and which host runs are safe. -/

namespace Sys2Proof.Safety

open Sys2Proof.Machine

/-! ## The invariants -/

/-- The parameters meet 00_scope R7. -/
abbrev ParamsOk (s : State) : Prop := s.params.wf

/-- The arena is in its canonical form: the listed bytes and the unspecified spans are canonical, lie in the arena and
do not meet, and every draw so far is older than the next one. -/
abbrev MemoryOk (s : State) : Prop :=
  Memory.wf s.mem ∧ Span.wf s.unspecified ∧
  (∀ c ∈ s.mem, s.params.arenaBase ≤ c.1 ∧ c.1 < s.arenaEnd) ∧
  (∀ u ∈ s.unspecified, s.params.arenaBase ≤ u.lo ∧ u.hi ≤ s.arenaEnd ∧ u.tag < s.draws) ∧
  (∀ u ∈ s.unspecified, ∀ c ∈ s.mem, u.has c.1 = false)

/-- The codes a command of the block can end with (60_exceptions R200). -/
def raisedCodes : List (BitVec 4) := [2#4, 3#4, 4#4, 6#4, 8#4, 9#4, 10#4, 11#4, 12#4]

/-- STATUS is consistent (10_state R24, R33; 60_exceptions R203, R204; 70_reset_and_hazards R235): nothing is reported
while BUSY, no code without ERR, ERR only when DONE and with a code the block raises, and FATAL after every error but
AllocationExhausted. -/
abbrev StatusOk (s : State) : Prop :=
  (s.status.busy = true → s.status.done = false ∧ s.status.err = false) ∧
  (s.status.err = false → s.status.errcode = 0#4) ∧
  (s.status.err = true → s.status.done = true ∧ s.status.errcode ∈ raisedCodes) ∧
  (s.status.err = true → s.status.errcode ≠ 2#4 → s.status.fatal = true)

/-- The CFG registers hold what 10_state R27 and 41_frame_allocator R100 say: 0 before INIT, then a region inside the
arena with `W = ceil(F / 64)` and `B = ceil(8*W / 4096)`. -/
abbrev ConfigOk (s : State) : Prop :=
  (s.status.initDone = false → s.cfgBase = 0#64 ∧ s.cfgNFrames = 0#64 ∧ s.cfgNWords = 0#64 ∧ s.cfgBmFrames = 0#64) ∧
  (s.status.initDone = true → s.base % 4096 = 0 ∧ 1 ≤ s.numFrames ∧ s.numWords = (s.numFrames + 63) / 64 ∧
    s.bmFrames = (8 * s.numWords + 4095) / 4096 ∧ s.params.arenaBase ≤ s.base ∧
    s.base + 4096 * s.numFrames ≤ s.arenaEnd)

/-- The part of the bitmap invariant 10_state R30 that speaks of the present state: after INIT the bits of the bitmap's
own frames and the padding bits are 1, and no bitmap byte is unspecified. -/
abbrev BitmapOk (s : State) : Prop :=
  s.status.initDone = true →
    (∀ j < 64 * s.numWords, j < s.bmFrames ∨ s.numFrames ≤ j → s.bit j = true) ∧
    (∀ u ∈ s.unspecified, u.hi ≤ s.base ∨ s.base + 8 * s.numWords ≤ u.lo)

/-- Races are recorded only while a command is in flight (20_memory R57). -/
abbrev RacesOk (s : State) : Prop := s.status.busy = false → s.raced = []

/-- The machine's invariant. -/
abbrev Inv (s : State) : Prop :=
  ParamsOk s ∧ MemoryOk s ∧ StatusOk s ∧ ConfigOk s ∧ BitmapOk s ∧ RacesOk s

/-- The boot order (70_reset_and_hazards R233 item 3): while an INIT is in flight, no host has written a bitmap word that
this INIT writes, `[start, start + 8*W)`. Other arena bytes it may write, and any while an INIT that fails is in flight. -/
abbrev BootOrder (s : State) : Prop :=
  decode? s.cmd = some .fbaInit → ∀ a ∈ s.raced, s.contended a = false

/-! ## What the next step is -/

/-- The next step performs command `i` (20_memory R52; log 7). -/
abbrev Performs (i : Instr) (s : State) : Prop :=
  s.status.busy = true ∧ decode s.cmd = .ok i ∧ (s.agenda = [] ∨ s.agenda.head? = some .engine)

/-- The next step frees no frame: it is no reset and performs no DEALLOC (41_frame_allocator R121 item 2). -/
abbrev FreesNothing (s : State) : Prop :=
  s.agenda.head? ≠ some .reset ∧ ∀ c : SizeClass, ¬ Performs c.deallocInstr s

/-! ## What a step leaves alone -/

/-- Every byte of the arena reads as before. -/
def SameBytes (s t : State) : Prop := ∀ a, t.arenaByte a = s.arenaByte a

/-- Every byte outside `lo .. hi - 1` reads as before. -/
def SameBytesOutside (lo hi : Nat) (s t : State) : Prop :=
  ∀ a, a < lo ∨ hi ≤ a → t.arenaByte a = s.arenaByte a

/-- What no command writes: the parameters, CMD, OPA, OPB, and the fields of the world outside the block. -/
def SameInputs (s t : State) : Prop :=
  t.params = s.params ∧ t.cmd = s.cmd ∧ t.opa = s.opa ∧ t.opb = s.opb ∧
  t.agenda = s.agenda ∧ t.lastRead = s.lastRead ∧ t.portUser = s.portUser

/-- The CFG registers are unchanged. -/
def SameCfg (s t : State) : Prop :=
  t.cfgBase = s.cfgBase ∧ t.cfgNFrames = s.cfgNFrames ∧ t.cfgNWords = s.cfgNWords ∧ t.cfgBmFrames = s.cfgBmFrames

/-- RES0 to RES3 hold these numbers. -/
def Results (t : State) (r0 r1 r2 r3 : Nat) : Prop :=
  t.res0.toNat = r0 ∧ t.res1.toNat = r1 ∧ t.res2.toNat = r2 ∧ t.res3.toNat = r3

/-- STATUS after a command that succeeded and left INIT_DONE alone (60_exceptions R203; 20_memory R52). -/
def Succeeded (s t : State) : Prop :=
  t.status = { busy := false, done := true, err := false, initDone := s.status.initDone, fatal := s.status.fatal,
               overrun := s.status.overrun, errcode := 0#4 }

/-- The whole effect of a command that ends with `raise e` (60_exceptions R204; 20_memory R52, R58): the RES registers
are 0, STATUS reports the error, FATAL is set unless the error is AllocationExhausted, and nothing else has changed. -/
def FailsWith (e : Error) (s t : State) : Prop :=
  Results t 0 0 0 0 ∧
  t.status = { busy := false, done := true, err := true, initDone := s.status.initDone,
               fatal := s.status.fatal || decide (e ≠ .allocationExhausted), overrun := s.status.overrun,
               errcode := e.code } ∧
  SameBytes s t ∧ SameCfg s t ∧ SameInputs s t ∧ t.draws = s.draws

/-! ## First fit (41_frame_allocator R104 to R107) -/

/-- Frames `k .. k+n-1` are all free. -/
abbrev FreeRun (s : State) (k n : Nat) : Prop := ∀ j < k + n, k ≤ j → s.bit j = false

/-- Frames `k .. k+n-1` are all used (41_frame_allocator R103). -/
abbrev UsedRun (s : State) (k n : Nat) : Prop := ∀ j < k + n, k ≤ j → s.bit j = true

/-- The starts a search visits, by path: any bit offset of a word that leaves room for the window (R105); the words
`0, q, 2q, …` with `q = count div 64` that leave room for the run (R106); the words at addresses aligned to the class
that leave room for the group (R107). -/
abbrev Candidate (s : State) (c : SizeClass) (count k : Nat) : Prop :=
  match c with
  | .c4k =>
    if count ≤ 64 then k / 64 < s.numWords ∧ k % 64 + count ≤ 64
    else k % (64 * (count / 64)) = 0 ∧ k + count ≤ 64 * s.numWords
  | .c2m => k % 64 = 0 ∧ k + count * 512 ≤ 64 * s.numWords ∧ (s.base + 4096 * k) % 2097152 = 0
  | .c1g => k % 64 = 0 ∧ k + count * 262144 ≤ 64 * s.numWords ∧ (s.base + 4096 * k) % 1073741824 = 0

/-- `k` is the first candidate whose frames are free (R104). -/
def FirstFit (s : State) (c : SizeClass) (count k : Nat) : Prop :=
  Candidate s c count k ∧ FreeRun s k (count * framesPer c) ∧
    ∀ k' < k, Candidate s c count k' → ¬ FreeRun s k' (count * framesPer c)

/-- No candidate's frames are free. -/
def NoFit (s : State) (c : SizeClass) (count : Nat) : Prop :=
  ∀ k, Candidate s c count k → ¬ FreeRun s k (count * framesPer c)

/-- A request that R108 and R117 do not turn away for its count: not 0, and not one single 1GiB frame. -/
abbrev CountServed (c : SizeClass) (count : Nat) : Prop := count ≠ 0 ∧ ¬ (c = .c1g ∧ count = 1)

/-- The bytes of the bitmap words that hold frames `k .. k+n-1`: from `BASE + 8*(k div 64)` on. -/
abbrev wordsLo (s : State) (k : Nat) : Nat := s.base + 8 * (k / 64)

/-- … to `BASE + 8*((k+n-1) div 64) + 7`. -/
abbrev wordsHi (s : State) (k n : Nat) : Nat := s.base + 8 * ((k + n - 1) / 64 + 1)

/-! ## Errors by command (60_exceptions R201) -/

/-- The errors of a command of the FBA family that takes a size class, but for AllocationExhausted and DoubleFree. -/
def classErrors (c : SizeClass) : List Error :=
  match c with
  | .c4k => [.notInitialized, .invalidArgument]
  | .c2m => [.notInitialized, .invalidArgument]
  | .c1g => [.unsupportedOperation, .notInitialized, .invalidArgument]

/-- The rows of the matrix of 60_exceptions R201. -/
def errorsOf : Instr → List Error
  | .fbaInit => [.misalignedAddress, .alreadyInitialized, .outOfRange, .invalidArgument]
  | .fbaAlloc4K => .allocationExhausted :: classErrors .c4k
  | .fbaAlloc2M => .allocationExhausted :: classErrors .c2m
  | .fbaAlloc1G => .allocationExhausted :: classErrors .c1g
  | .fbaZalloc4K => .allocationExhausted :: classErrors .c4k
  | .fbaZalloc2M => .allocationExhausted :: classErrors .c2m
  | .fbaZalloc1G => .allocationExhausted :: classErrors .c1g
  | .fbaDealloc4K => .doubleFree :: .misalignedAddress :: .outOfRange :: classErrors .c4k
  | .fbaDealloc2M => .doubleFree :: .misalignedAddress :: .outOfRange :: classErrors .c2m
  | .fbaDealloc1G => .doubleFree :: .misalignedAddress :: .outOfRange :: classErrors .c1g
  | .pteEnc => [.invalidArgument]
  | .pteDec => []

/-! ## Which runs are safe -/

/-- No fatal error has been recorded and no host write was dropped (60_exceptions R204, R205; decision D29): the runs
the source's own software has. -/
abbrev Clean (s : State) : Prop := s.status.fatal = false ∧ s.status.overrun = false

/-- The twelve legal command words (30_encoding R81). -/
def legalWords : List Word :=
  [0x01#64, 0x02#64, 0x12#64, 0x22#64, 0x03#64, 0x13#64, 0x23#64, 0x04#64, 0x14#64, 0x24#64, 0x08#64, 0x09#64]

end Sys2Proof.Safety
end

