-- ==== Sys2Proof/Certificates/Slice0/Obligations.lean ====
section
/-! DEFINITION. The statements for the provers, one Prop each. A docstring names the rule it formalises. -/

open Sys2Proof Sys2Proof.Machine Sys2Proof.Safety

/-! ## Encoding -/

/-- 30_encoding R81, R86: the twelve words of the opcode map decode to their commands. -/
def Obligations.CommandWordsDecode : Prop :=
  decode 0x01#64 = .ok .fbaInit ∧ decode 0x02#64 = .ok .fbaAlloc4K ∧ decode 0x12#64 = .ok .fbaAlloc2M ∧
  decode 0x22#64 = .ok .fbaAlloc1G ∧ decode 0x03#64 = .ok .fbaZalloc4K ∧ decode 0x13#64 = .ok .fbaZalloc2M ∧
  decode 0x23#64 = .ok .fbaZalloc1G ∧ decode 0x04#64 = .ok .fbaDealloc4K ∧ decode 0x14#64 = .ok .fbaDealloc2M ∧
  decode 0x24#64 = .ok .fbaDealloc1G ∧ decode 0x08#64 = .ok .pteEnc ∧ decode 0x09#64 = .ok .pteDec

/-- 30_encoding R81, R86: decoding the encoding of a command gives it back, and a word that decodes to a command is the
encoding of that command, so that no bit of a command word is dropped. -/
def Obligations.DecodeEncodeAgree : Prop :=
  (∀ i : Instr, i.wf → decode (encode i) = .ok i) ∧ (∀ (v : Word) (i : Instr), decode v = .ok i → v = encode i)

/-- 30_encoding R83: a word is legal iff it is one of the twelve; an illegal one is accepted like any other, and its
perform step ends with IllegalCommand and no other effect. -/
def Obligations.IllegalWordAcceptedThenFails : Prop :=
  (∀ v : Word, (∃ i, decode v = .ok i) ↔ v ∈ legalWords) ∧
  ∀ (s : State) (agent : Nat) (v : Word), s.status.busy = false → s.portTaken agent = false → v ∉ legalWords →
    s.agenda = [.host agent (.regWrite s.params.mmioBase 8 v), .engine] →
    ∃ t u, step s = .next t ∧ t.cmd = v ∧ t.status.busy = true ∧ step t = .next u ∧
      FailsWith .illegalCommand (t.withAgenda []) u

/-- 30_encoding R87: the reserved space, and that every reserved word is illegal and raises IllegalCommand. -/
def Obligations.ReservedSpaceIsIllegal : Prop :=
  ∀ v : Word,
    (v ∉ legalWords ↔
      (opField v ∈ [0x0#4, 0x5#4, 0x6#4, 0x7#4, 0xA#4, 0xB#4, 0xC#4, 0xD#4, 0xE#4, 0xF#4] ∨ scField v = 3#2 ∨
        (scField v ≠ 0#2 ∧ opField v ∈ [0x1#4, 0x8#4, 0x9#4]) ∨ rsvdField v ≠ 0#58)) ∧
    (v ∉ legalWords → ∀ s : State, s.cmd = v → s.status.busy = true → s.agenda = [] →
      ∃ t, step s = .next t ∧ FailsWith .illegalCommand s t)

/-! ## The step -/

/-- 20_memory R52: the engine's move is the perform step, enabled iff BUSY is 1: it decodes CMD and runs that command,
an illegal word raises IllegalCommand, and BUSY is 0 after it. The agenda (log 7) says when the move comes. -/
def Obligations.StepPerformsDecodedCommand : Prop :=
  ∀ s : State,
    (s.status.busy = false → s.agenda = [] → step s = .next s) ∧
    (s.status.busy = false → ∀ rest, s.agenda = .engine :: rest → step s = .next (s.withAgenda rest)) ∧
    (s.status.busy = true → ∀ i, decode s.cmd = .ok i → i.wf →
      (s.agenda = [] → step s = exec i s) ∧
      (∀ rest, s.agenda = .engine :: rest → step s = exec i (s.withAgenda rest))) ∧
    (s.status.busy = true → ∀ e, decode s.cmd = .error e → s.agenda = [] →
      ∃ t, step s = .next t ∧ FailsWith .illegalCommand s t) ∧
    (∀ i t, exec i s = .next t → t.status.busy = false)

/-- 20_memory R55 ("the block has no bus error"): under the invariant the engine's move always has a next state. -/
def Obligations.EngineNeverFaults : Prop :=
  ∀ s : State, Inv s → s.status.busy = true → s.agenda = [] →
    ∃ t, step s = .next t ∧ t.status.busy = false ∧ t.status.done = true

/-- 20_memory R53: a host that polls STATUS any number of times sees the command performed at the next engine move. -/
def Obligations.PolledCommandIsPerformed : Prop :=
  ∀ (n agent : Nat) (s : State), Inv s → s.status.busy = true →
    s.agenda = List.replicate n (statusPoll s.params agent) →
    ∃ t, core.run (n + 1) s = .next t ∧ t.status.busy = false ∧ t.status.done = true

/-- 20_memory R55: the engine writes no arena byte outside `[BASE, BASE + 4096*F)`. -/
def Obligations.EngineWritesOnlyItsRegion : Prop :=
  ∀ s t : State, Inv s → s.status.busy = true → s.agenda = [] → step s = .next t →
    SameBytesOutside t.base (t.base + 4096 * t.numFrames) s t

/-- 20_memory R57: a byte that the command in flight does not write, by the model's footprint of it (log 13), is
unchanged by its perform step, in every state. -/
def Obligations.PerformWritesOnlyItsFootprint : Prop :=
  ∀ s t : State, s.status.busy = true → s.agenda = [] → step s = .next t →
    ∀ a, s.contended a = false → t.arenaByte a = s.arenaByte a

/-! ## The page-table-entry codec -/

/-- 42_pte_codec R166: PTE.ENC, its word, its result and its two argument checks, in every state. -/
def Obligations.PteEncEffect : Prop :=
  decode 0x08#64 = .ok .pteEnc ∧ ∀ s : State,
    (s.opaNat < 2 ^ 8 → s.opbNat < 2 ^ 44 → ∃ t, exec .pteEnc s = .next t ∧
      Results t ((s.opbNat <<< 10) ||| s.opaNat)
        (if s.opaNat % 2 = 0 then 0 else if s.opaNat / 2 % 8 ≠ 0 then 1 else 2) 0 0 ∧
      t.res0.extractLsb' 0 8 = s.opa.extractLsb' 0 8 ∧ t.res0.extractLsb' 10 9 = s.opb.extractLsb' 0 9 ∧
      t.res0.extractLsb' 19 9 = s.opb.extractLsb' 9 9 ∧ t.res0.extractLsb' 28 26 = s.opb.extractLsb' 18 26 ∧
      t.res0 &&& rsvdMask = 0#64 ∧ Succeeded s t ∧ SameBytes s t ∧ SameCfg s t ∧ SameInputs s t) ∧
    (2 ^ 8 ≤ s.opaNat ∨ 2 ^ 44 ≤ s.opbNat → ∃ t, exec .pteEnc s = .next t ∧ FailsWith .invalidArgument s t)

/-- 42_pte_codec R167: PTE.DEC, its word; it decodes every operand, in every state. -/
def Obligations.PteDecEffect : Prop :=
  decode 0x09#64 = .ok .pteDec ∧ ∀ s : State, ∃ t, exec .pteDec s = .next t ∧
    Results t (s.opaNat % 2 ^ 8) (s.opaNat / 2 ^ 10 % 2 ^ 44)
      (if s.opaNat % 2 = 0 then 0 else if s.opaNat / 2 % 8 ≠ 0 then 1 else 2)
      (s.opa &&& 0xFFC0000000000300#64).toNat ∧
    Succeeded s t ∧ SameBytes s t ∧ SameCfg s t ∧ SameInputs s t

/-- 42_pte_codec R167, R169 (corner cases): DEC after ENC gives the flags, the frame number, the kind and no reserved
bit; ENC after DEC gives the word without its reserved bits. -/
def Obligations.PteCodecRoundTrip : Prop :=
  (∀ s : State, s.opaNat < 2 ^ 8 → s.opbNat < 2 ^ 44 → ∃ t u, exec .pteEnc s = .next t ∧
    exec .pteDec { t with opa := t.res0 } = .next u ∧
    u.res0 = s.opa ∧ u.res1 = s.opb ∧ u.res2 = t.res1 ∧ u.res3 = 0#64) ∧
  (∀ s : State, ∃ t u, exec .pteDec s = .next t ∧
    exec .pteEnc { t with opa := t.res0, opb := t.res1 } = .next u ∧
    u.status.err = false ∧ u.res0 = s.opa &&& ~~~ 0xFFC0000000000300#64 ∧ u.res1 = t.res2)

/-- 42_pte_codec R162: the reassembled frame number, PPN0 least significant, is the field `pte[53:10]`. -/
def Obligations.PpnReassembly : Prop :=
  ∀ w : Word,
    ptePpn0 w = w.extractLsb' 10 9 ∧ ptePpn1 w = w.extractLsb' 19 9 ∧ ptePpn2 w = w.extractLsb' 28 26 ∧
    (ptePpn w).toNat = (ptePpn2 w).toNat * 2 ^ 18 + (ptePpn1 w).toNat * 2 ^ 9 + (ptePpn0 w).toNat ∧
    ptePpn w = w.extractLsb' 10 44

/-- 42_pte_codec R164: the kind of a PTE, and that it depends on V, R, W and X only. -/
def Obligations.PteKindClassification : Prop :=
  ∀ w : Word,
    (pteKind w = .empty ↔ w.getLsbD 0 = false) ∧
    (pteKind w = .leaf ↔ w.getLsbD 0 = true ∧ (w.getLsbD 1 = true ∨ w.getLsbD 2 = true ∨ w.getLsbD 3 = true)) ∧
    (pteKind w = .branch ↔ w.getLsbD 0 = true ∧ w.getLsbD 1 = false ∧ w.getLsbD 2 = false ∧ w.getLsbD 3 = false) ∧
    (∀ v : Word, v.extractLsb' 0 4 = w.extractLsb' 0 4 → pteKind v = pteKind w) ∧
    PteKind.empty.code = 0#64 ∧ PteKind.leaf.code = 1#64 ∧ PteKind.branch.code = 2#64

/-- 42_pte_codec R168: what the codec answers depends on the operands alone, in any two states, and it changes RES and
STATUS alone. -/
def Obligations.CodecDependsOnOperandsOnly : Prop :=
  ∀ (i : Instr) (s s' : State), i = .pteEnc ∨ i = .pteDec → s.opa = s'.opa → s.opb = s'.opb →
    ∃ t t', exec i s = .next t ∧ exec i s' = .next t' ∧ t.res0 = t'.res0 ∧ t.res1 = t'.res1 ∧ t.res2 = t'.res2 ∧
      t.res3 = t'.res3 ∧ t.status.err = t'.status.err ∧ t.status.errcode = t'.status.errcode ∧
      SameBytes s t ∧ SameCfg s t ∧ SameInputs s t ∧ t.status.initDone = s.status.initDone

/-! ## FBA.INIT -/

/-- 41_frame_allocator R100: FBA.INIT, its word, its checks in order and its whole effect. The premise on `raced` says that no
host wrote the bitmap words while the INIT was in flight (20_memory R57; the raced case is RacedBytesEndEitherWay). -/
def Obligations.InitEffect : Prop :=
  decode 0x01#64 = .ok .fbaInit ∧ ∀ s : State,
    (s.status.initDone = true → ∃ t, exec .fbaInit s = .next t ∧ FailsWith .alreadyInitialized s t) ∧
    (s.status.initDone = false →
      (s.opbNat < s.opaNat + 4096 → ∃ t, exec .fbaInit s = .next t ∧ FailsWith .invalidArgument s t) ∧
      (s.opaNat + 4096 ≤ s.opbNat →
        (s.opaNat % 4096 ≠ 0 → ∃ t, exec .fbaInit s = .next t ∧ FailsWith .misalignedAddress s t) ∧
        (s.opaNat % 4096 = 0 →
          (s.opaNat < s.params.arenaBase ∨ s.arenaEnd < s.opbNat →
            ∃ t, exec .fbaInit s = .next t ∧ FailsWith .outOfRange s t) ∧
          (s.params.arenaBase ≤ s.opaNat → s.opbNat ≤ s.arenaEnd →
            ∀ F W B : Nat, F = (s.opbNat - s.opaNat) / 4096 → W = (F + 63) / 64 → B = (8 * W + 4095) / 4096 →
            (∀ a ∈ s.raced, a < s.opaNat ∨ s.opaNat + 8 * W ≤ a) →
            B ≤ F ∧ ∃ t, exec .fbaInit s = .next t ∧ Results t F W B 0 ∧
              t.base = s.opaNat ∧ t.numFrames = F ∧ t.numWords = W ∧ t.bmFrames = B ∧
              t.status = { busy := false, done := true, err := false, initDone := true, fatal := s.status.fatal,
                           overrun := s.status.overrun, errcode := 0#4 } ∧
              (∀ j < 64 * W, t.bit j = decide (j < B ∨ F ≤ j)) ∧
              SameBytesOutside s.opaNat (s.opaNat + 8 * W) s t ∧ SameInputs s t))))

/-- 10_state R27: no step but a reset changes a CFG register, except the first successful INIT. -/
def Obligations.CfgChangesOnlyAtFirstInit : Prop :=
  ∀ s t : State, step s = .next t → s.agenda.head? ≠ some .reset →
    SameCfg s t ∨ (s.status.initDone = false ∧ t.status.initDone = true ∧ decode s.cmd = .ok .fbaInit)

/-! ## FBA.ALLOC and FBA.ZALLOC -/

/-- 41_frame_allocator R104 to R107: each search path returns the first candidate of the path whose frames are free,
and nothing iff there is none. -/
def Obligations.SearchIsFirstFit : Prop :=
  ∀ (s : State) (c : SizeClass) (count : Nat), count ≠ 0 →
    (∀ k, s.search c count = some k ↔ FirstFit s c count k) ∧ (s.search c count = none ↔ NoFit s c count)

/-- 41_frame_allocator R105 ("The freecount test never changes the result"): a word that holds a free window has enough
free bits. -/
def Obligations.FreecountTestIsRedundant : Prop :=
  ∀ (x : Word) (n i : Nat), i + n ≤ 64 → windowFree x n i = true → n ≤ freecount x

/-- 41_frame_allocator R108, R110 to R112: FBA.ALLOC in each class: its checks in order, exhaustion, and the first fit
marked used with every other bit, byte and register left alone. -/
def Obligations.AllocEffect : Prop :=
  (decode 0x02#64 = .ok .fbaAlloc4K ∧ decode 0x12#64 = .ok .fbaAlloc2M ∧ decode 0x22#64 = .ok .fbaAlloc1G ∧
    SizeClass.allocInstr .c4k = .fbaAlloc4K ∧ SizeClass.allocInstr .c2m = .fbaAlloc2M ∧
    SizeClass.allocInstr .c1g = .fbaAlloc1G) ∧
  ∀ (c : SizeClass) (s : State), Inv s →
    (s.status.initDone = false → ∃ t, exec c.allocInstr s = .next t ∧ FailsWith .notInitialized s t) ∧
    (s.status.initDone = true →
      (s.opaNat = 0 → ∃ t, exec c.allocInstr s = .next t ∧ FailsWith .invalidArgument s t) ∧
      (c = .c1g → s.opaNat = 1 → ∃ t, exec c.allocInstr s = .next t ∧ FailsWith .unsupportedOperation s t) ∧
      (CountServed c s.opaNat →
        (NoFit s c s.opaNat → ∃ t, exec c.allocInstr s = .next t ∧ FailsWith .allocationExhausted s t) ∧
        (∀ k n, FirstFit s c s.opaNat k → n = s.opaNat * framesPer c → ∃ t, exec c.allocInstr s = .next t ∧
          Results t (s.base + 4096 * k) n 0 0 ∧ Succeeded s t ∧
          (∀ j, t.bit j = (s.bit j || decide (k ≤ j ∧ j < k + n))) ∧
          SameBytesOutside (wordsLo s k) (wordsHi s k n) s t ∧ SameCfg s t ∧ SameInputs s t)))

/-- 41_frame_allocator R113 to R116: FBA.ZALLOC in each class: as ALLOC, and every byte of the frames becomes 0. The
premise on `raced` says that no host wrote those frames while the command was in flight (20_memory R57). -/
def Obligations.ZallocEffect : Prop :=
  (decode 0x03#64 = .ok .fbaZalloc4K ∧ decode 0x13#64 = .ok .fbaZalloc2M ∧ decode 0x23#64 = .ok .fbaZalloc1G ∧
    SizeClass.zallocInstr .c4k = .fbaZalloc4K ∧ SizeClass.zallocInstr .c2m = .fbaZalloc2M ∧
    SizeClass.zallocInstr .c1g = .fbaZalloc1G) ∧
  ∀ (c : SizeClass) (s : State), Inv s →
    (s.status.initDone = false → ∃ t, exec c.zallocInstr s = .next t ∧ FailsWith .notInitialized s t) ∧
    (s.status.initDone = true →
      (s.opaNat = 0 → ∃ t, exec c.zallocInstr s = .next t ∧ FailsWith .invalidArgument s t) ∧
      (c = .c1g → s.opaNat = 1 → ∃ t, exec c.zallocInstr s = .next t ∧ FailsWith .unsupportedOperation s t) ∧
      (CountServed c s.opaNat →
        (NoFit s c s.opaNat → ∃ t, exec c.zallocInstr s = .next t ∧ FailsWith .allocationExhausted s t) ∧
        (∀ k n lo hi, FirstFit s c s.opaNat k → n = s.opaNat * framesPer c →
          lo = s.base + 4096 * k → hi = lo + 4096 * n → (∀ a ∈ s.raced, a < lo ∨ hi ≤ a) →
          ∃ t, exec c.zallocInstr s = .next t ∧
          Results t lo n 0 0 ∧ Succeeded s t ∧
          (∀ j < 64 * s.numWords, t.bit j = (s.bit j || decide (k ≤ j ∧ j < k + n))) ∧
          (∀ a, lo ≤ a → a < hi → t.arenaByte a = 0#8) ∧
          (∀ a, (a < lo ∨ hi ≤ a) → (a < wordsLo s k ∨ wordsHi s k n ≤ a) → t.arenaByte a = s.arenaByte a) ∧
          SameCfg s t ∧ SameInputs s t)))

/-- 20_memory R57: a byte that the host wrote while the ZALLOC filling it, or the INIT writing it, was in flight ends
with the host's value or the engine's; a filled byte it did not write is 0. -/
def Obligations.RacedBytesEndEitherWay : Prop :=
  (∀ (c : SizeClass) (s : State) (k n : Nat), Inv s → s.status.initDone = true → CountServed c s.opaNat →
    FirstFit s c s.opaNat k → n = s.opaNat * framesPer c →
    ∃ t, exec c.zallocInstr s = .next t ∧ Succeeded s t ∧
      ∀ a, s.base + 4096 * k ≤ a → a < s.base + 4096 * (k + n) →
        (a ∉ s.raced → t.arenaByte a = 0#8) ∧ (t.arenaByte a = 0#8 ∨ t.arenaByte a = s.arenaByte a)) ∧
  (∀ s : State, s.status.initDone = false → s.opaNat + 4096 ≤ s.opbNat → s.opaNat % 4096 = 0 →
    s.params.arenaBase ≤ s.opaNat → s.opbNat ≤ s.arenaEnd →
    ∃ t u, exec .fbaInit s = .next t ∧ exec .fbaInit { s with raced := [] } = .next u ∧
      ∀ a, (a ∉ s.raced → t.arenaByte a = u.arenaByte a) ∧
        (t.arenaByte a = u.arenaByte a ∨ t.arenaByte a = s.arenaByte a))

/-- 41_frame_allocator R121 item 1, R108: a successful ALLOC or ZALLOC returns an address aligned to its class, and its
frames are tracked frames outside the bitmap. -/
def Obligations.AllocatedRunIsAlignedAndInRegion : Prop :=
  ∀ (c : SizeClass) (i : Instr) (s t : State), i = c.allocInstr ∨ i = c.zallocInstr → Inv s →
    exec i s = .next t → t.status.err = false →
    t.res0.toNat % bytesPer c = 0 ∧ t.res1.toNat = s.opaNat * framesPer c ∧ 1 ≤ t.res1.toNat ∧
    s.base + 4096 * s.bmFrames ≤ t.res0.toNat ∧
    t.res0.toNat + 4096 * t.res1.toNat ≤ s.base + 4096 * s.numFrames

/-- 41_frame_allocator R121 item 2: two successful allocations with no DEALLOC between them return disjoint ranges: two
commands back to back, and two perform steps of the machine with any steps between them (failed commands, other
allocations, a second INIT, host accesses) of which none is a reset or performs a DEALLOC. -/
def Obligations.AllocationsDoNotOverlap : Prop :=
  (∀ (c c' : SizeClass) (i i' : Instr) (s t u : State) (count : Word),
    i = c.allocInstr ∨ i = c.zallocInstr → i' = c'.allocInstr ∨ i' = c'.zallocInstr → Inv s →
    exec i s = .next t → t.status.err = false → exec i' { t with opa := count } = .next u → u.status.err = false →
    t.res0.toNat + 4096 * t.res1.toNat ≤ u.res0.toNat ∨ u.res0.toNat + 4096 * u.res1.toNat ≤ t.res0.toNat) ∧
  (∀ (c c' : SizeClass) (i i' : Instr) (n : Nat) (s t v u : State),
    i = c.allocInstr ∨ i = c.zallocInstr → i' = c'.allocInstr ∨ i' = c'.zallocInstr → Inv s →
    Performs i s → step s = .next t → t.status.err = false →
    (∀ m x, m < n → core.run m t = .next x → FreesNothing x) → core.run n t = .next v →
    Performs i' v → step v = .next u → u.status.err = false →
    t.res0.toNat + 4096 * t.res1.toNat ≤ u.res0.toNat ∨ u.res0.toNat + 4096 * u.res1.toNat ≤ t.res0.toNat)

/-! ## FBA.DEALLOC -/

/-- 41_frame_allocator R117 to R120: FBA.DEALLOC in each class: its checks in order, and the frames marked free with
every other bit, byte and register left alone. -/
def Obligations.DeallocEffect : Prop :=
  (decode 0x04#64 = .ok .fbaDealloc4K ∧ decode 0x14#64 = .ok .fbaDealloc2M ∧ decode 0x24#64 = .ok .fbaDealloc1G ∧
    SizeClass.deallocInstr .c4k = .fbaDealloc4K ∧ SizeClass.deallocInstr .c2m = .fbaDealloc2M ∧
    SizeClass.deallocInstr .c1g = .fbaDealloc1G) ∧
  ∀ (c : SizeClass) (s : State) (k n : Nat), Inv s → k = (s.opaNat - s.base) / 4096 → n = s.opbNat * framesPer c →
    (s.status.initDone = false → ∃ t, exec c.deallocInstr s = .next t ∧ FailsWith .notInitialized s t) ∧
    (s.status.initDone = true →
      (s.opbNat = 0 → ∃ t, exec c.deallocInstr s = .next t ∧ FailsWith .invalidArgument s t) ∧
      (c = .c1g → s.opbNat = 1 → ∃ t, exec c.deallocInstr s = .next t ∧ FailsWith .unsupportedOperation s t) ∧
      (CountServed c s.opbNat →
        (s.opaNat % bytesPer c ≠ 0 → ∃ t, exec c.deallocInstr s = .next t ∧ FailsWith .misalignedAddress s t) ∧
        (s.opaNat % bytesPer c = 0 →
          (s.opaNat < s.base ∨ k < s.bmFrames ∨ s.numFrames < k + n →
            ∃ t, exec c.deallocInstr s = .next t ∧ FailsWith .outOfRange s t) ∧
          (s.base ≤ s.opaNat → s.bmFrames ≤ k → k + n ≤ s.numFrames →
            (¬ UsedRun s k n → ∃ t, exec c.deallocInstr s = .next t ∧ FailsWith .doubleFree s t) ∧
            (UsedRun s k n → ∃ t, exec c.deallocInstr s = .next t ∧
              Results t 0 n 0 0 ∧ Succeeded s t ∧
              (∀ j, t.bit j = (s.bit j && !decide (k ≤ j ∧ j < k + n))) ∧
              SameBytesOutside (wordsLo s k) (wordsHi s k n) s t ∧ SameCfg s t ∧ SameInputs s t)))))

/-- 41_frame_allocator R121 items 3 and 4: freeing at once what was allocated succeeds and restores every bitmap word
(for ALLOC, every byte of the arena), and freeing it again is a DoubleFree that changes nothing. -/
def Obligations.AllocThenFreeRestoresThenDoubleFree : Prop :=
  ∀ (c : SizeClass) (i : Instr) (s t : State), i = c.allocInstr ∨ i = c.zallocInstr → Inv s →
    exec i s = .next t → t.status.err = false →
    ∃ u v, exec c.deallocInstr { t with opa := t.res0, opb := s.opa } = .next u ∧ u.status.err = false ∧
      u.res1 = t.res1 ∧ (∀ w < s.numWords, u.bm w = s.bm w) ∧ (i = c.allocInstr → SameBytes s u) ∧
      exec c.deallocInstr u = .next v ∧ FailsWith .doubleFree u v

/-! ## The bitmap operations -/

/-- 41_frame_allocator R101: `SetFrames` is the loop of its rule: frame by frame, the frame's bit is set in its word;
below the bitmap nothing changes. -/
def Obligations.SetFramesIsItsLoop : Prop :=
  ∀ (s : State) (k n w : Nat), (s.setFrames k n).bm w =
    (List.range n).foldl (fun x i => if (k + i) / 64 = w then x ||| (1#64 <<< ((k + i) % 64)) else x) (s.bm w) ∧
    ∀ a < s.base, (s.setFrames k n).arenaByte a = s.arenaByte a

/-- 41_frame_allocator R102: `ClearFrames` is the loop of its rule; below the bitmap nothing changes. -/
def Obligations.ClearFramesIsItsLoop : Prop :=
  ∀ (s : State) (k n w : Nat), (s.clearFrames k n).bm w =
    (List.range n).foldl (fun x i => if (k + i) / 64 = w then x &&& ~~~ (1#64 <<< ((k + i) % 64)) else x) (s.bm w) ∧
    ∀ a < s.base, (s.clearFrames k n).arenaByte a = s.arenaByte a

/-- 20_memory R54: byte `k` of a bitmap word is its bits `8k+7 .. 8k`, and four bytes are its bits 31:0. -/
def Obligations.BitmapIsLittleEndian : Prop :=
  ∀ (s : State) (w : Nat),
    (∀ k, k < 8 → s.arenaByte (s.base + 8 * w + k) = (s.bm w).extractLsb' (8 * k) 8) ∧
    s.memRead (s.base + 8 * w) 4 = (s.bm w).toNat % 2 ^ 32

/-! ## Errors and completion -/

/-- 20_memory R58, 60_exceptions R204, R206: a command that ends with an error raises one error of its own and changes
nothing but RES and STATUS; so does the step that performs it, an illegal word's too. -/
def Obligations.ErrorChangesNothingElse : Prop :=
  (∀ s t : State, s.status.busy = true → s.agenda = [] → step s = .next t → t.status.err = true →
    ∃ e, FailsWith e s t) ∧
  ∀ (i : Instr) (s t : State), exec i s = .next t →
    t.status.done = true ∧ t.status.busy = false ∧
    (t.status.err = true → ∃ e ∈ errorsOf i, FailsWith e s t) ∧
    (t.status.err = false → t.status.errcode = 0#4 ∧ t.status.fatal = s.status.fatal ∧
      t.status.overrun = s.status.overrun)

/-- 60_exceptions R201: which command can end with which code; every other pair is impossible. -/
def Obligations.ErrorMatrix : Prop :=
  (∀ (i : Instr) (e : Error), e ∈ errorsOf i ↔
    ∃ s t, Inv s ∧ exec i s = .next t ∧ t.status.err = true ∧ t.status.errcode = e.code) ∧
  (∀ (i : Instr) (s t : State), exec i s = .next t → t.status.err = true → ∃ e ∈ errorsOf i, t.status.errcode = e.code) ∧
  (∀ s t : State, s.status.busy = true → s.agenda = [] → s.cmd ∉ legalWords → step s = .next t →
    t.status.err = true ∧ t.status.errcode = 8#4)

/-- 60_exceptions R205: FATAL, OVERRUN and INIT_DONE are cleared by reset only; the next accepted CMD write clears ERR
and ERRCODE. -/
def Obligations.StickyFlags : Prop :=
  (∀ s t : State, step s = .next t → s.agenda.head? ≠ some .reset →
    (s.status.fatal = true → t.status.fatal = true) ∧ (s.status.overrun = true → t.status.overrun = true) ∧
    (s.status.initDone = true → t.status.initDone = true)) ∧
  (∀ (s : State) (rest : List Move), s.agenda = .reset :: rest → ∃ t, step s = .next t ∧
    t.status.fatal = false ∧ t.status.overrun = false ∧ t.status.initDone = false) ∧
  (∀ (s : State) (agent : Nat) (v : Word) (rest : List Move), s.status.busy = false → s.portTaken agent = false →
    s.agenda = .host agent (.regWrite s.params.mmioBase 8 v) :: rest →
    ∃ t, step s = .next t ∧ t.status.err = false ∧ t.status.errcode = 0#4)

/-- 30_encoding R84: OPB has no effect on ALLOC, ZALLOC and PTE.DEC. -/
def Obligations.IgnoredOperandHasNoEffect : Prop :=
  ∀ (i : Instr) (s t : State) (x : Word),
    i = .pteDec ∨ (∃ c : SizeClass, i = c.allocInstr ∨ i = c.zallocInstr) → exec i s = .next t →
    exec i { s with opb := x } = .next { t with opb := x }

/-! ## The register window -/

/-- 10_state R24: the STATUS word. -/
def Obligations.StatusLayout : Prop :=
  ∀ t : Status,
    t.toWord.getLsbD 0 = t.busy ∧ t.toWord.getLsbD 1 = t.done ∧ t.toWord.getLsbD 2 = t.err ∧
    t.toWord.getLsbD 3 = t.initDone ∧ t.toWord.getLsbD 4 = t.fatal ∧ t.toWord.getLsbD 5 = t.overrun ∧
    t.toWord.extractLsb' 6 2 = 0#2 ∧ t.toWord.extractLsb' 8 4 = t.errcode ∧ t.toWord.extractLsb' 12 52 = 0#52

/-- 10_state R20, R26, R28, R35: a read of each of the sixteen slots returns the register's value and changes nothing
of the block. Who holds the port is the model's own record (log 9). -/
def Obligations.RegisterReadReturnsValue : Prop :=
  ∀ (s : State) (agent index : Nat) (v : Word) (rest : List Move),
    [s.cmd, s.opa, s.opb, s.status.toWord, s.res0, s.res1, s.res2, s.res3, s.cfgBase, s.cfgNFrames, s.cfgNWords,
      s.cfgBmFrames, 1#64, 0#64, 0#64, 0#64][index]? = some v →
    s.agenda = .host agent (.regRead (s.params.mmioBase + 8 * index) 8) :: rest →
    ∃ t, step s = .next t ∧ t = { s with agenda := rest, lastRead := .register v, portUser := t.portUser }

/-- 10_state R33: a CMD write is accepted when BUSY is 0 and dropped, with OVERRUN set, when BUSY is 1. The premise
`portTaken` excludes only what CommandPortMutex states. -/
def Obligations.CmdWriteAcceptedOrDropped : Prop :=
  ∀ (s : State) (agent : Nat) (v : Word) (rest : List Move),
    s.agenda = .host agent (.regWrite s.params.mmioBase 8 v) :: rest →
    (s.status.busy = true → step s = .next { s with agenda := rest, status := { s.status with overrun := true } }) ∧
    (s.status.busy = false → s.portTaken agent = false → step s = .next { s with
      agenda := rest, cmd := v, portUser := some { agent := agent, accepted := true },
      status := { s.status with busy := true, done := false, err := false, errcode := 0#4 } })

/-- 10_state R34: a write to OPA or OPB, likewise. -/
def Obligations.OperandWriteTakenOrDropped : Prop :=
  ∀ (s : State) (agent offset : Nat) (v : Word) (rest : List Move), offset = 0x08 ∨ offset = 0x10 →
    s.agenda = .host agent (.regWrite (s.params.mmioBase + offset) 8 v) :: rest →
    (s.status.busy = true → step s = .next { s with agenda := rest, status := { s.status with overrun := true } }) ∧
    (s.status.busy = false → s.portTaken agent = false → step s = .next { s with
      agenda := rest, opa := if offset = 0x08 then v else s.opa, opb := if offset = 0x10 then v else s.opb,
      portUser := some { agent := agent, accepted := false } })

/-- 10_state R28: a reserved slot reads as 0; a write to it, to ID or to a read-only register changes nothing. -/
def Obligations.ReadOnlyWritesIgnored : Prop :=
  (∀ (s : State) (index : Nat), 13 ≤ index → index ≤ 15 →
    s.slotOf (s.params.mmioBase + 8 * index) 8 = some .reserved ∧ s.readReg .reserved = 0#64) ∧
  ∀ (s : State) (agent index : Nat) (v : Word) (rest : List Move), 3 ≤ index → index ≤ 15 →
    s.agenda = .host agent (.regWrite (s.params.mmioBase + 8 * index) 8 v) :: rest →
    step s = .next (s.withAgenda rest)

/-- 10_state R21: a step sets BUSY only as a host's CMD write, which CMD then holds. -/
def Obligations.OnlyCmdWriteStartsCommand : Prop :=
  ∀ s t : State, step s = .next t → s.status.busy = false → t.status.busy = true →
    ∃ agent v rest, s.agenda = .host agent (.regWrite s.params.mmioBase 8 v) :: rest ∧ t.cmd = v

/-- 10_state R21, R22, R23: a step changes CMD, OPA or OPB only as a reset or as a host's write of the new value to that
register with BUSY 0: the block never writes them. -/
def Obligations.OnlyHostWritesInputs : Prop :=
  ∀ s t : State, step s = .next t → s.agenda.head? ≠ some .reset →
    (t.cmd ≠ s.cmd → s.status.busy = false ∧ ∃ agent,
      s.agenda.head? = some (.host agent (.regWrite s.params.mmioBase 8 t.cmd))) ∧
    (t.opa ≠ s.opa → s.status.busy = false ∧ ∃ agent,
      s.agenda.head? = some (.host agent (.regWrite (s.params.mmioBase + 0x08) 8 t.opa))) ∧
    (t.opb ≠ s.opb → s.status.busy = false ∧ ∃ agent,
      s.agenda.head? = some (.host agent (.regWrite (s.params.mmioBase + 0x10) 8 t.opb)))

/-- 10_state R25: a step changes a RES register only as the perform step of a command in flight, or as a reset. -/
def Obligations.ResultsChangeOnlyAtPerform : Prop :=
  ∀ s t : State, step s = .next t → s.agenda.head? ≠ some .reset →
    t.res0 ≠ s.res0 ∨ t.res1 ≠ s.res1 ∨ t.res2 ≠ s.res2 ∨ t.res3 ≠ s.res3 →
    s.status.busy = true ∧ t.status.done = true ∧ (s.agenda = [] ∨ s.agenda.head? = some .engine)

/-- 10_state R36: any other access to the window is refused. -/
def Obligations.OtherWindowAccessRefused : Prop :=
  ∀ (s : State) (agent addr width : Nat) (v : Word) (rest : List Move) (a : Access),
    width ≠ 8 ∨ addr < s.params.mmioBase ∨ s.params.mmioBase + 128 ≤ addr ∨ (addr - s.params.mmioBase) % 8 ≠ 0 →
    a = .regRead addr width ∨ a = .regWrite addr width v → s.agenda = .host agent a :: rest →
    step s = .refused .registerAccess

/-- 20_memory R61, 93_implementation_defined entry 24, log 9 (when a sequence ends is the model's choice): with BUSY 0, a
write to CMD, OPA or OPB by another agent than the one that holds the port is refused; the holder lets go of it by
reading STATUS with BUSY 0 and DONE 1 after its accepted CMD write. -/
def Obligations.CommandPortMutex : Prop :=
  (∀ (s : State) (agent index : Nat) (u : PortUse) (v : Word) (rest : List Move), index ≤ 2 →
    s.status.busy = false → s.portUser = some u → u.agent ≠ agent →
    s.agenda = .host agent (.regWrite (s.params.mmioBase + 8 * index) 8 v) :: rest →
    step s = .refused .portInterleaved) ∧
  (∀ (s : State) (agent : Nat) (rest : List Move), s.status.busy = false → s.status.done = true →
    s.portUser = some { agent := agent, accepted := true } →
    s.agenda = .host agent (.regRead (s.params.mmioBase + 0x18) 8) :: rest →
    ∃ t, step s = .next t ∧ t.portUser = none)

/-- 60_exceptions R210, R211: the block takes no notice of which agent makes an access: two agents' same access, where
neither is refused, leaves the same state but for the model's record of the port (log 9). -/
def Obligations.RequesterIdentityIgnored : Prop :=
  ∀ (s : State) (a b : Nat) (x : Access) (rest : List Move) (t u : State),
    step (s.withAgenda (.host a x :: rest)) = .next t → step (s.withAgenda (.host b x :: rest)) = .next u →
    { t with portUser := none } = { u with portUser := none }

/-- 10_state R25, R34, R37, 70_reset_and_hazards R235: while BUSY is 1 a host access changes neither the command in
flight, nor its operands, nor the results, nor the CFG registers, and ERR and ERRCODE stay. -/
def Obligations.HostAccessWhileBusyKeepsCommand : Prop :=
  ∀ (s t : State) (agent : Nat) (a : Access) (rest : List Move), s.status.busy = true →
    s.agenda = .host agent a :: rest → step s = .next t →
    t.cmd = s.cmd ∧ t.opa = s.opa ∧ t.opb = s.opb ∧ t.res0 = s.res0 ∧ t.res1 = s.res1 ∧ t.res2 = s.res2 ∧
    t.res3 = s.res3 ∧ SameCfg s t ∧ t.status = { s.status with overrun := t.status.overrun } ∧ t.agenda = rest

/-! ## The host and the arena -/

/-- 70_reset_and_hazards R236: after INIT a host write to a bitmap word is refused. -/
def Obligations.BitmapWriteRefused : Prop :=
  ∀ (s : State) (agent addr a : Nat) (bytes : List Byte) (rest : List Move), s.status.initDone = true →
    s.params.arenaBase ≤ addr → addr + bytes.length ≤ s.arenaEnd →
    addr ≤ a → a < addr + bytes.length → s.base ≤ a → a < s.base + 8 * s.numWords →
    s.agenda = .host agent (.arenaWrite addr bytes) :: rest → step s = .refused .bitmapWrite

/-- 20_memory R50, R57, 70_reset_and_hazards R236, R237: any other host write in the arena stores its bytes and leaves
every other byte and every register alone; while BUSY is 1 its addresses are recorded as raced (log 5). -/
def Obligations.HostArenaWriteStores : Prop :=
  ∀ (s : State) (agent addr : Nat) (bytes : List Byte) (rest : List Move),
    s.params.arenaBase ≤ addr → addr + bytes.length ≤ s.arenaEnd →
    (s.status.initDone = true → ∀ a, addr ≤ a → a < addr + bytes.length → a < s.base ∨ s.base + 8 * s.numWords ≤ a) →
    s.agenda = .host agent (.arenaWrite addr bytes) :: rest →
    ∃ t, step s = .next t ∧ (∀ i (h : i < bytes.length), t.arenaByte (addr + i) = bytes[i]) ∧
      SameBytesOutside addr (addr + bytes.length) s t ∧
      (s.status.busy = true → ∀ i < bytes.length, addr + i ∈ t.raced) ∧
      t = { s with agenda := rest, mem := t.mem, unspecified := t.unspecified, raced := t.raced }

/-- 20_memory R57: a host read in the arena returns, for every byte that the command in flight does not write, the
byte's value, and changes nothing of the block; the other bytes are draws of a free value (log 4). -/
def Obligations.HostArenaReadReturnsBytes : Prop :=
  ∀ (s : State) (agent addr len : Nat) (rest : List Move),
    s.params.arenaBase ≤ addr → addr + len ≤ s.arenaEnd →
    s.agenda = .host agent (.arenaRead addr len) :: rest →
    ∃ t bs, step s = .next t ∧ t = { s with agenda := rest, lastRead := .arena bs, draws := t.draws } ∧
      bs.length = len ∧ s.draws ≤ t.draws ∧
      (∀ i (h : i < bs.length), s.contended (addr + i) = false → bs[i] = s.arenaByte (addr + i)) ∧
      (∀ i (h : i < bs.length), s.contended (addr + i) = true → bs[i] = Config.racedRead s.draws (addr + i) ∧
        t.draws = s.draws + 1)

/-- Log 10 (the model's choice; 00_scope R13 defines no access there): a host access outside the arena is a fault. -/
def Obligations.HostAccessOutsideArenaFaults : Prop :=
  ∀ (s : State) (agent addr len : Nat) (bytes : List Byte) (rest : List Move) (a : Access),
    a = .arenaRead addr len ∨ (a = .arenaWrite addr bytes ∧ len = bytes.length) →
    addr < s.params.arenaBase ∨ s.arenaEnd < addr + len → s.agenda = .host agent a :: rest →
    step s = .fault .hostOutsideArena

/-- 42_pte_codec R170, 20_memory R54: a host that stores a PTE in entry `i` of a table finds the word there, read
little-endian, and no other byte changed. -/
def Obligations.PteStoreReadsBack : Prop :=
  ∀ (s : State) (agent tableAddr i : Nat) (word : Word) (rest : List Move),
    s.params.arenaBase ≤ tableAddr → tableAddr + 8 * i + 8 ≤ s.arenaEnd →
    (s.status.initDone = true → tableAddr + 8 * i + 8 ≤ s.base ∨ s.base + 8 * s.numWords ≤ tableAddr + 8 * i) →
    s.agenda = .host agent (pteStore tableAddr i word) :: rest →
    ∃ t, step s = .next t ∧ t.memRead (tableAddr + 8 * i) 8 = word.toNat ∧
      SameBytesOutside (tableAddr + 8 * i) (tableAddr + 8 * i + 8) s t

/-! ## Host scripts -/

/-- 30_encoding R90: what each pseudo-instruction stands for and what the assembler refuses. -/
def Obligations.PseudoInstructions : Prop :=
  coreLine .frame = .alloc .c4k 1 ∧ coreLine .table = .zalloc .c4k 1 ∧
  (∀ a, coreLine (.free4k a) = .dealloc .c4k a 1) ∧ coreLine .pteEmpty = .pteEnc 0 0 ∧
  (∀ pa, coreLine (.pteBranch pa) = .pteEnc 1 (pa >>> 12)) ∧
  (∀ pa flags, coreLine (.pteLeaf pa flags) = .pteEnc (flags ||| 1) (pa >>> 12)) ∧
  (∀ l : Line, lineInstr (coreLine l) = lineInstr l) ∧ (∀ l : Line, l.wf → (coreLine l).wf) ∧
  Line.wf .frame ∧ Line.wf .table ∧ Line.wf .pteEmpty ∧ (∀ a, a < 2 ^ 64 → Line.wf (.free4k a)) ∧
  (∀ pa, ¬ Line.wf (.pteBranch pa) ↔ pa % 4096 ≠ 0 ∨ 2 ^ 56 ≤ pa) ∧
  (∀ pa flags, flags < 2 ^ 64 → (¬ Line.wf (.pteLeaf pa flags) ↔
    pa % 4096 ≠ 0 ∨ 2 ^ 56 ≤ pa ∨ (flags.testBit 1 = false ∧ flags.testBit 2 = false ∧ flags.testBit 3 = false)))

/-- 30_encoding R91: the moves of one line, from an idle block and with any number of polls, run exactly its command on
its operands and end with the host holding the final STATUS word. -/
def Obligations.LineRunsItsCommand : Prop :=
  ∀ (s u : State) (l : Line) (agent polls : Nat), l.wf → Inv s → s.status.busy = false → s.portUser = none →
    s.agenda = lineMoves s.params agent polls l →
    u = { s with
      opa := BitVec.ofNat 64 (lineOperandA l)
      opb := (lineOperandB l).elim s.opb (fun b => BitVec.ofNat 64 b)
      cmd := encode (lineInstr l)
      status := { s.status with busy := true, done := false, err := false, errcode := 0#4 }
      agenda := [] } →
    ∃ t, exec (lineInstr l) u = .next t ∧
      core.run (lineMoves s.params agent polls l).length s =
        .next { t with lastRead := .register t.status.toWord, portUser := none }

/-! ## Reset -/

/-- 10_state R40, 70_reset_and_hazards R230: after a reset with no command in flight every register holds its reset
value and every arena byte is unchanged; at power-on every arena byte is unspecified (a free value: log 2). -/
def Obligations.ResetValues : Prop :=
  (∀ (s : State) (rest : List Move), s.status.busy = false → s.agenda = .reset :: rest →
    ∃ t, step s = .next t ∧ (∀ r : Reg, t.readReg r = if r = .id then 1#64 else 0#64) ∧
      t.status.busy = false ∧ SameBytes s t ∧ t.params = s.params ∧ t.agenda = rest) ∧
  (∀ p : Config.Params, (∀ r : Reg, (State.resetWith p).readReg r = if r = .id then 1#64 else 0#64) ∧
    (State.resetWith p).status.busy = false ∧ (State.resetWith p).params = p ∧
    ∀ a, p.arenaBase ≤ a → a < p.arenaBase + p.arenaLen →
      (State.resetWith p).arenaByte a = Config.unspecifiedByte 0 a)

/-- 70_reset_and_hazards R231: a reset with a command in flight leaves every byte of the managed region, and for an INIT
of `[OPA, OPB)`, at a fresh draw, and every other arena byte unchanged; the registers take their reset values. -/
def Obligations.ResetInFlightDrawsRegion : Prop :=
  ∀ (s : State) (rest : List Move), s.status.busy = true → s.agenda = .reset :: rest →
    ∃ t, step s = .next t ∧ (∀ r : Reg, t.readReg r = if r = .id then 1#64 else 0#64) ∧
      ∀ a, s.params.arenaBase ≤ a → a < s.arenaEnd →
        ((s.base ≤ a ∧ a < s.base + 4096 * s.numFrames) ∨
            (decode s.cmd = .ok .fbaInit ∧ s.opaNat ≤ a ∧ a < s.opbNat) →
          ∃ tag, s.draws ≤ tag ∧ tag < t.draws ∧ t.arenaByte a = Config.unspecifiedByte tag a) ∧
        (¬ (s.base ≤ a ∧ a < s.base + 4096 * s.numFrames) →
          ¬ (decode s.cmd = .ok .fbaInit ∧ s.opaNat ≤ a ∧ a < s.opbNat) → t.arenaByte a = s.arenaByte a)

/-! ## Invariants -/

/-- The invariant holds right after reset, for any parameters that meet 00_scope R7, and at `State.reset`. -/
def Obligations.ResetHasInvariant : Prop :=
  (∀ p : Config.Params, p.wf → Inv (State.resetWith p)) ∧ Inv State.reset

/-- Every step, of the engine, the host or reset, keeps the arena's canonical form (the model's form of memory; every
engine and host access stays in the arena: 00_scope R13). -/
def Obligations.StepKeepsMemoryCanonical : Prop :=
  ∀ s t : State, MemoryOk s → step s = .next t → MemoryOk t

/-- 10_state R24, 60_exceptions R203, R204: every step keeps STATUS consistent. -/
def Obligations.StepKeepsStatusConsistent : Prop :=
  ∀ s t : State, StatusOk s → step s = .next t → StatusOk t

/-- 10_state R27, R30, 41_frame_allocator R100: every step keeps the invariant, if no host has written the words that an
INIT in flight writes (the boot order, 70_reset_and_hazards R233 item 3). -/
def Obligations.StepKeepsInvariant : Prop :=
  ∀ s t : State, Inv s → BootOrder s → step s = .next t → Inv t

/-- 10_state R30, 41_frame_allocator R121: after INIT, resets apart, only the perform step of a DEALLOC takes a bit of the
bitmap from 1 to 0, and only that of an ALLOC or ZALLOC takes one from 0 to 1. -/
def Obligations.BitmapBitsChangeOnlyByAllocAndDealloc : Prop :=
  ∀ s t : State, Inv s → s.status.initDone = true → s.agenda.head? ≠ some .reset → step s = .next t →
    SameCfg s t ∧ t.status.initDone = true ∧
    ∀ j < 64 * s.numWords,
      (s.bit j = true → t.bit j = false → ∃ c : SizeClass, Performs c.deallocInstr s) ∧
      (s.bit j = false → t.bit j = true → ∃ c : SizeClass, Performs c.allocInstr s ∨ Performs c.zallocInstr s)

/-! ## Where the boot order was broken (logs 20 and 21) -/

/-- Logs 20 and 21 (the model's choice; the spec is silent there): in every state, with or without the bitmap invariant
10_state R30, whose bitmap words lie in the arena, ALLOC takes the first fit even past `F`, its address being a free value
where it does not fit 64 bits; ZALLOC fills it where it lies in the arena and ends in a fault where it does not. -/
def Obligations.AllocationWithoutInvariant : Prop :=
  ∀ (c : SizeClass) (s : State) (k n lo : Nat), s.status.initDone = true → CountServed c s.opaNat →
    s.params.arenaBase ≤ s.base → s.base + 8 * s.numWords ≤ s.arenaEnd →
    FirstFit s c s.opaNat k → n = s.opaNat * framesPer c → lo = s.base + 4096 * k →
    (∃ t, exec c.allocInstr s = .next t ∧ Succeeded s t ∧
      t.res0 = (if lo < 2 ^ 64 then BitVec.ofNat 64 lo else Config.unfitResult lo) ∧
      ∀ j, t.bit j = (s.bit j || decide (k ≤ j ∧ j < k + n))) ∧
    (lo + 4096 * n ≤ s.arenaEnd → ∃ t, exec c.zallocInstr s = .next t ∧ Succeeded s t ∧
      ∀ a, lo ≤ a → a < lo + 4096 * n → a ∉ s.raced → t.arenaByte a = 0#8) ∧
    (s.arenaEnd < lo + 4096 * n → exec c.zallocInstr s = .fault .engineOutsideArena)
end

