-- ==== Sys2Proof/Laws/Memory.lean ====
section
/-! SUPPORT. What the memory operations do to every byte, and that each keeps the canonical form. -/

namespace Sys2Proof.Machine

/-! ## Listed bytes -/

theorem Memory.find_append (m m' : Memory) (a : Nat) :
    Memory.find (m ++ m') a = (Memory.find m a).or (Memory.find m' a) := by
  induction m with
  | nil => simp [Memory.find]
  | cons c rest ih => by_cases h : c.1 = a <;> simp [Memory.find, h, ih]

theorem Memory.find_filter (m : Memory) (p : Nat → Bool) (a : Nat) :
    Memory.find (m.filter (fun c => p c.1)) a = if p a then Memory.find m a else none := by
  induction m with
  | nil => simp [Memory.find]
  | cons c rest ih =>
    by_cases hc : p c.1 <;> by_cases h : c.1 = a
    · subst h; simp [Memory.find, hc]
    · simp [Memory.find, hc, h, ih]
    · subst h; simp [hc, ih]
    · simp [Memory.find, hc, h, ih]

theorem Memory.find_cells_of_lt (bs : List Byte) (a b : Nat) (h : b < a) :
    Memory.find (Memory.cells a bs) b = none := by
  induction bs generalizing a with
  | nil => rfl
  | cons x rest ih =>
    have hne : a ≠ b := by omega
    by_cases hx : x = 0#8 <;> simp [Memory.cells, Memory.find, hx, hne, ih (a + 1) (by omega)]

theorem Memory.find_cells_of_ge (bs : List Byte) (a b : Nat) (h : a + bs.length ≤ b) :
    Memory.find (Memory.cells a bs) b = none := by
  induction bs generalizing a with
  | nil => rfl
  | cons x rest ih =>
    have hl : a + (rest.length + 1) ≤ b := by simpa using h
    have hne : a ≠ b := by omega
    by_cases hx : x = 0#8 <;> simp [Memory.cells, Memory.find, hx, hne, ih (a + 1) (by omega)]

theorem Memory.find_cells (bs : List Byte) (a i : Nat) (h : i < bs.length) :
    (Memory.find (Memory.cells a bs) (a + i)).getD 0#8 = bs[i] := by
  induction bs generalizing a i with
  | nil => simp at h
  | cons x rest ih =>
    cases i with
    | zero =>
      by_cases hx : x = 0#8
      · simp [Memory.cells, hx, Memory.find_cells_of_lt rest (a + 1) a (by omega)]
      · simp [Memory.cells, Memory.find, hx]
    | succ i =>
      have hi : i < rest.length := by simpa using h
      have e : a + (i + 1) = a + 1 + i := by omega
      have hne : a ≠ a + 1 + i := by omega
      by_cases hx : x = 0#8
      · simp only [Memory.cells, hx, if_true, e, List.getElem_cons_succ]; exact ih (a + 1) i hi
      · simp only [Memory.cells, hx, if_false, Memory.find, e, hne, List.getElem_cons_succ]
        exact ih (a + 1) i hi

/-- Outside the bytes written, a memory lists what it listed. -/
theorem Memory.find_put_outside (m : Memory) (a : Nat) (bs : List Byte) (b : Nat)
    (h : b < a ∨ a + bs.length ≤ b) : Memory.find (Memory.put m a bs) b = Memory.find m b := by
  have e1 := Memory.find_filter m (fun x => decide (x < a)) b
  have e2 := Memory.find_filter m (fun x => decide (a + bs.length ≤ x)) b
  simp only [Memory.put, Memory.find_append]
  rw [e1, e2]
  rcases h with h | h
  · have : ¬ a + bs.length ≤ b := by omega
    simp [h, this, Memory.find_cells_of_lt bs a b h]
  · have : ¬ b < a := by omega
    simp [h, this, Memory.find_cells_of_ge bs a b h]

/-- At a byte written, a memory lists it, or nothing for a byte 0. -/
theorem Memory.find_put_inside (m : Memory) (a : Nat) (bs : List Byte) (i : Nat) (h : i < bs.length) :
    (Memory.find (Memory.put m a bs) (a + i)).getD 0#8 = bs[i] := by
  have e1 := Memory.find_filter m (fun x => decide (x < a)) (a + i)
  have e2 := Memory.find_filter m (fun x => decide (a + bs.length ≤ x)) (a + i)
  simp only [Memory.put, Memory.find_append]
  rw [e1, e2]
  have h1 : ¬ a + i < a := by omega
  have h2 : ¬ bs.length ≤ i := by omega
  simp [h1, h2, Memory.find_cells bs a i h]

theorem Memory.find_clear (m : Memory) (lo hi b : Nat) :
    Memory.find (Memory.clear m lo hi) b = if lo ≤ b ∧ b < hi then none else Memory.find m b := by
  have e := Memory.find_filter m (fun x => !decide (lo ≤ x ∧ x < hi)) b
  unfold Memory.clear
  rw [e]
  by_cases h : lo ≤ b ∧ b < hi <;> simp [h]

/-! ## Unspecified spans -/

theorem unlistedByte_nil (b : Nat) : unlistedByte [] b = 0#8 := rfl

theorem unlistedByte_cons (u : Span) (us : List Span) (b : Nat) :
    unlistedByte (u :: us) b = if u.has b then Config.unspecifiedByte u.tag b else unlistedByte us b := by
  by_cases h : u.has b <;> simp [unlistedByte, h]

theorem unlistedByte_none (us : List Span) (b : Nat) (h : ∀ u ∈ us, u.has b = false) : unlistedByte us b = 0#8 := by
  have : us.find? (fun u => u.has b) = none := by simpa using h
  simp [unlistedByte, this]

theorem unlistedByte_append (us vs : List Span) (b : Nat) :
    unlistedByte (us ++ vs) b = if us.any (fun u => u.has b) then unlistedByte us b else unlistedByte vs b := by
  induction us with
  | nil => simp
  | cons u us ih =>
    by_cases h : u.has b
    · simp [unlistedByte_cons, h]
    · simp [unlistedByte_cons, h, ih]

theorem Span.has_minus_inside (u : Span) (lo hi b : Nat) (h : lo ≤ b ∧ b < hi) :
    ∀ v ∈ Span.minus lo hi u, v.has b = false := by
  intro v hv
  simp only [Span.minus, Span.piece, List.mem_append] at hv
  rcases hv with hv | hv <;> split at hv <;> simp at hv <;> subst hv <;> (simp [Span.has]; omega)

theorem Span.any_piece (u : Span) (b : Nat) : (Span.piece u).any (fun v => v.has b) = u.has b := by
  unfold Span.piece
  split
  · simp
  · simp [Span.has]; omega

theorem unlistedByte_piece (u : Span) (b : Nat) :
    unlistedByte (Span.piece u) b = if u.has b then Config.unspecifiedByte u.tag b else 0#8 := by
  unfold Span.piece
  split
  · rw [unlistedByte_cons]; rfl
  · have : u.has b = false := by simp [Span.has]; omega
    simp [this, unlistedByte_nil]

theorem unlistedByte_minus_outside (u : Span) (lo hi b : Nat) (h : b < lo ∨ hi ≤ b) (hlt : lo < hi) :
    unlistedByte (Span.minus lo hi u) b = unlistedByte [u] b ∧
      (Span.minus lo hi u).any (fun v => v.has b) = u.has b := by
  have e : u.has b = (Span.has { u with hi := min u.hi lo } b || Span.has { u with lo := max u.lo hi } b) := by
    rw [Bool.eq_iff_iff]; simp only [Span.has, Bool.or_eq_true, decide_eq_true_eq]; omega
  constructor
  · rw [Span.minus, unlistedByte_append, Span.any_piece, unlistedByte_piece, unlistedByte_piece, unlistedByte_cons, e,
      unlistedByte_nil]
    by_cases h1 : Span.has { u with hi := min u.hi lo } b = true <;> simp [h1]
  · rw [Span.minus, List.any_append, Span.any_piece, Span.any_piece, e]

theorem unlistedByte_cut_inside (us : List Span) (lo hi b : Nat) (h : lo ≤ b ∧ b < hi) :
    unlistedByte (Span.cut us lo hi) b = 0#8 := by
  have hlt : ¬ hi ≤ lo := by omega
  apply unlistedByte_none
  intro v hv
  simp only [Span.cut, hlt, if_false, List.mem_flatMap] at hv
  obtain ⟨u, -, hv⟩ := hv
  exact Span.has_minus_inside u lo hi b h v hv

theorem unlistedByte_cut_outside (us : List Span) (lo hi b : Nat) (h : b < lo ∨ hi ≤ b) :
    unlistedByte (Span.cut us lo hi) b = unlistedByte us b := by
  unfold Span.cut
  split
  · rfl
  · induction us with
    | nil => rfl
    | cons u us ih =>
      obtain ⟨e1, e2⟩ := unlistedByte_minus_outside u lo hi b h (by omega)
      rw [List.flatMap_cons, unlistedByte_append, e2, e1, unlistedByte_cons, ih]
      by_cases hu : u.has b <;> simp [hu, unlistedByte_cons]

/-- A cut leaves no span that meets the range taken out. -/
theorem Span.cut_disjoint (us : List Span) (lo hi : Nat) (h : lo < hi) :
    ∀ u ∈ Span.cut us lo hi, u.hi ≤ lo ∨ hi ≤ u.lo := by
  intro v hv
  have hlt : ¬ hi ≤ lo := by omega
  simp only [Span.cut, hlt, if_false, List.mem_flatMap, Span.minus, Span.piece, List.mem_append] at hv
  obtain ⟨u, -, hv | hv⟩ := hv <;> split at hv <;> simp at hv <;> subst hv <;> simp

/-- Every span of a cut is a nonempty part of a span that was there, under the same tag. -/
theorem Span.cut_part (us : List Span) (lo hi : Nat) (hus : ∀ u ∈ us, u.lo < u.hi) :
    ∀ v ∈ Span.cut us lo hi, ∃ u ∈ us, u.lo ≤ v.lo ∧ v.hi ≤ u.hi ∧ v.tag = u.tag ∧ v.lo < v.hi := by
  intro v hv
  unfold Span.cut at hv
  split at hv
  · exact ⟨v, hv, le_rfl, le_rfl, rfl, hus v hv⟩
  · simp only [List.mem_flatMap, Span.minus, Span.piece, List.mem_append] at hv
    obtain ⟨u, hu, hv | hv⟩ := hv <;> split at hv <;> simp at hv <;> subst hv
    · exact ⟨u, hu, le_rfl, by simp, rfl, by assumption⟩
    · exact ⟨u, hu, by simp, le_rfl, rfl, by assumption⟩

/-! ## The canonical forms are kept -/

theorem Memory.cells_mem (bs : List Byte) (a : Nat) :
    ∀ c ∈ Memory.cells a bs, a ≤ c.1 ∧ c.1 < a + bs.length ∧ c.2 ≠ 0#8 := by
  induction bs generalizing a with
  | nil => simp [Memory.cells]
  | cons x rest ih =>
    intro c hc
    by_cases hx : x = 0#8
    · simp only [Memory.cells, hx, if_true] at hc
      have := ih (a + 1) c hc
      simp only [List.length_cons]; exact ⟨by omega, by omega, this.2.2⟩
    · simp only [Memory.cells, hx, if_false, List.mem_cons] at hc
      rcases hc with rfl | hc
      · simp [hx]
      · have := ih (a + 1) c hc
        simp only [List.length_cons]; exact ⟨by omega, by omega, this.2.2⟩

theorem Memory.cells_pairwise (bs : List Byte) (a : Nat) :
    (Memory.cells a bs).Pairwise (fun c d => c.1 < d.1) := by
  induction bs generalizing a with
  | nil => simp [Memory.cells]
  | cons x rest ih =>
    by_cases hx : x = 0#8
    · simpa [Memory.cells, hx] using ih (a + 1)
    · simp only [Memory.cells, hx, if_false, List.pairwise_cons]
      refine ⟨fun c hc => ?_, ih (a + 1)⟩
      have := Memory.cells_mem rest (a + 1) c hc
      omega

/-- An entry of a written memory is an old one outside the bytes written, or one of them. -/
theorem Memory.put_mem (m : Memory) (a : Nat) (bs : List Byte) (c : Host.Cell) (hc : c ∈ Memory.put m a bs) :
    (c ∈ m ∧ (c.1 < a ∨ a + bs.length ≤ c.1)) ∨ (a ≤ c.1 ∧ c.1 < a + bs.length ∧ c.2 ≠ 0#8) := by
  simp only [Memory.put, List.mem_append, List.mem_filter, decide_eq_true_eq] at hc
  rcases hc with (h | h) | h
  · exact .inl ⟨h.1, .inl h.2⟩
  · exact .inr (Memory.cells_mem bs a c h)
  · exact .inl ⟨h.1, .inr h.2⟩

theorem Memory.wf_put (m : Memory) (a : Nat) (bs : List Byte) (h : Memory.wf m) : Memory.wf (Memory.put m a bs) := by
  refine ⟨?_, fun c hc => ?_⟩
  · simp only [Memory.put, List.pairwise_append]
    refine ⟨⟨h.1.filter _, Memory.cells_pairwise bs a, fun c hc d hd => ?_⟩, h.1.filter _, fun c hc d hd => ?_⟩
    · have := Memory.cells_mem bs a d hd
      have := (List.mem_filter.1 hc).2; simp only [decide_eq_true_eq] at this; omega
    · have hd' := (List.mem_filter.1 hd).2; simp only [decide_eq_true_eq] at hd'
      rcases List.mem_append.1 hc with hc | hc
      · have := (List.mem_filter.1 hc).2; simp only [decide_eq_true_eq] at this; omega
      · have := Memory.cells_mem bs a c hc; omega
  · rcases Memory.put_mem m a bs c hc with hm | hm
    · exact h.2 c hm.1
    · exact hm.2.2

theorem Memory.wf_clear (m : Memory) (lo hi : Nat) (h : Memory.wf m) : Memory.wf (Memory.clear m lo hi) :=
  ⟨h.1.filter _, fun c hc => h.2 c (List.mem_filter.1 hc).1⟩

theorem Memory.clear_mem (m : Memory) (lo hi : Nat) (c : Host.Cell) (hc : c ∈ Memory.clear m lo hi) :
    c ∈ m ∧ (c.1 < lo ∨ hi ≤ c.1) := by
  obtain ⟨h1, h2⟩ := List.mem_filter.1 hc
  simp only [Bool.not_eq_true', decide_eq_false_iff_not] at h2
  exact ⟨h1, by omega⟩

theorem Span.minus_pairwise (u : Span) (lo hi : Nat) (h : lo < hi) :
    (Span.minus lo hi u).Pairwise (fun u v => u.hi ≤ v.lo ∧ (u.hi = v.lo → u.tag ≠ v.tag)) := by
  unfold Span.minus Span.piece
  split <;> split <;> simp <;> omega

theorem Span.wf_cut (us : List Span) (lo hi : Nat) (h : Span.wf us) : Span.wf (Span.cut us lo hi) := by
  refine ⟨?_, fun v hv => ?_⟩
  · unfold Span.cut
    split
    · exact h.1
    · rename_i hlt
      have hlt' : lo < hi := by omega
      obtain ⟨hp, hne⟩ := h
      induction us with
      | nil => simp
      | cons u us ih =>
        rw [List.pairwise_cons] at hp
        rw [List.flatMap_cons, List.pairwise_append]
        refine ⟨Span.minus_pairwise u lo hi hlt', ih hp.2 (fun v hv => hne v (by simp [hv])), fun x hx y hy => ?_⟩
        obtain ⟨w, hw, hy⟩ := List.mem_flatMap.1 hy
        have hn := hne u (by simp)
        have hn' := hne w (by simp [hw])
        have := hp.1 w hw
        simp only [Span.minus, Span.piece, List.mem_append] at hx hy
        rcases hx with hx | hx <;> split at hx <;> simp at hx <;> subst hx <;>
          rcases hy with hy | hy <;> split at hy <;> simp at hy <;> subst hy <;> simp <;>
          refine ⟨by omega, fun he => this.2 (by omega)⟩
  · obtain ⟨u, -, -, -, -, h5⟩ := Span.cut_part us lo hi h.2 v hv
    exact h5

theorem Span.add_mem (us : List Span) (lo hi tag : Nat) (v : Span) (hv : v ∈ Span.add us lo hi tag) :
    v ∈ Span.cut us lo hi ∨ (lo < hi ∧ v = { lo := lo, hi := hi, tag := tag }) := by
  unfold Span.add at hv
  split at hv
  · rename_i h; left; simpa [Span.cut, h] using hv
  · simp only [List.mem_append, List.mem_filter, List.mem_singleton] at hv
    rcases hv with (hv | hv) | hv
    · exact .inl hv.1
    · exact .inr ⟨by omega, hv⟩
    · exact .inl hv.1

/-- Adding a span under a fresh tag keeps the canonical form. -/
theorem Span.wf_add (us : List Span) (lo hi tag : Nat) (h : Span.wf us) (hfresh : ∀ u ∈ us, u.tag ≠ tag) :
    Span.wf (Span.add us lo hi tag) := by
  have hc := Span.wf_cut us lo hi h
  by_cases hlt : hi ≤ lo
  · simpa [Span.add, hlt] using h
  have hlt' : lo < hi := by omega
  have hd := Span.cut_disjoint us lo hi hlt'
  have hp := Span.cut_part us lo hi h.2
  have ht : ∀ v ∈ Span.cut us lo hi, v.tag ≠ tag := fun v hv => by
    obtain ⟨u, hu, -, -, e, -⟩ := hp v hv; rw [e]; exact hfresh u hu
  refine ⟨?_, fun v hv => ?_⟩
  · simp only [Span.add, hlt, if_false, List.pairwise_append, List.pairwise_singleton, List.mem_append,
      List.mem_filter, List.mem_singleton, decide_eq_true_eq]
    refine ⟨⟨hc.1.filter _, trivial, ?_⟩, hc.1.filter _, ?_⟩
    · rintro x ⟨hx, hxlo⟩ y rfl
      have := hd x hx
      have := hc.2 x hx
      exact ⟨by show x.hi ≤ lo; omega, fun _ => ht x hx⟩
    · rintro x hx y ⟨hy, hylo⟩
      have h1 := hd y hy
      have h2 := hc.2 y hy
      rcases hx with ⟨hx, hxlo⟩ | rfl
      · have h3 := hd x hx
        have h4 := hc.2 x hx
        exact ⟨by omega, fun _ => by omega⟩
      · exact ⟨by show hi ≤ y.lo; omega, fun _ => (ht y hy).symm⟩
  · rcases Span.add_mem us lo hi tag v hv with hv | ⟨h1, rfl⟩
    · exact hc.2 v hv
    · exact h1

theorem unlistedByte_filter (us : List Span) (p : Span → Bool) (b : Nat) (h : ∀ u ∈ us, u.has b = true → p u = true) :
    unlistedByte (us.filter p) b = unlistedByte us b := by
  induction us with
  | nil => rfl
  | cons u us ih =>
    have ih' := ih (fun v hv => h v (by simp [hv]))
    by_cases hu : u.has b = true
    · simp [h u (by simp) hu, unlistedByte_cons, hu]
    · by_cases hp : p u = true <;> simp [hp, unlistedByte_cons, hu, ih']

/-- Outside the span added, every address reads as before. -/
theorem unlistedByte_add_outside (us : List Span) (lo hi tag b : Nat) (h : b < lo ∨ hi ≤ b) :
    unlistedByte (Span.add us lo hi tag) b = unlistedByte us b := by
  by_cases hlt : hi ≤ lo
  · simp [Span.add, hlt]
  have hd := Span.cut_disjoint us lo hi (by omega)
  have hn : Span.has { lo := lo, hi := hi, tag := tag } b = false := by simp [Span.has]; omega
  have hcut := unlistedByte_cut_outside us lo hi b h
  simp only [Span.add, hlt, if_false]
  rw [unlistedByte_append]
  rcases h with h | h
  · have e2 : unlistedByte ((Span.cut us lo hi).filter (fun u => decide (u.lo < lo))) b = unlistedByte us b := by
      rw [unlistedByte_filter _ _ _ (fun u hu hb => ?_), hcut]
      simp only [Span.has, decide_eq_true_eq] at hb ⊢; omega
    split
    · rename_i hany
      rw [unlistedByte_append]
      simp only [List.any_append, List.any_cons, hn, List.any_nil, Bool.or_false] at hany
      simp [hany, e2]
    · rename_i hany
      simp only [List.any_append, List.any_cons, hn, List.any_nil, Bool.or_false] at hany
      have e0 : unlistedByte us b = 0#8 := by
        rw [← e2]; apply unlistedByte_none
        simpa [List.any_eq_true] using hany
      rw [e0]
      apply unlistedByte_none
      intro u hu
      obtain ⟨-, hu⟩ := List.mem_filter.1 hu
      simp only [decide_eq_true_eq] at hu
      simp [Span.has]; omega
  · have hz : ((Span.cut us lo hi).filter (fun u : Span => decide (u.lo < lo)) ++
        [({ lo := lo, hi := hi, tag := tag } : Span)]).any (fun u : Span => u.has b) = false := by
      simp only [List.any_append, List.any_cons, hn, List.any_nil, Bool.or_false]
      rw [Bool.eq_false_iff]
      intro hc
      obtain ⟨u, hu, hb⟩ := List.any_eq_true.1 hc
      obtain ⟨hu1, hu2⟩ := List.mem_filter.1 hu
      have := hd u hu1
      simp only [Span.has, decide_eq_true_eq] at hb hu2; omega
    rw [hz]
    simp only [Bool.false_eq_true, if_false]
    rw [unlistedByte_filter _ _ _ (fun u hu hb => ?_), hcut]
    have := hd u hu
    simp only [Span.has, decide_eq_true_eq] at hb ⊢; omega

/-- In the span added, every address reads as that draw. -/
theorem unlistedByte_add_inside (us : List Span) (lo hi tag b : Nat) (h : lo ≤ b ∧ b < hi) :
    unlistedByte (Span.add us lo hi tag) b = Config.unspecifiedByte tag b := by
  have hlt : ¬ hi ≤ lo := by omega
  have hd := Span.cut_disjoint us lo hi (by omega)
  have hn : Span.has { lo := lo, hi := hi, tag := tag } b = true := by simp [Span.has]; omega
  have hf : ((Span.cut us lo hi).filter (fun u => decide (u.lo < lo))).any (fun u => u.has b) = false := by
    rw [Bool.eq_false_iff]
    intro hc
    obtain ⟨u, hu, hb⟩ := List.any_eq_true.1 hc
    obtain ⟨hu1, hu2⟩ := List.mem_filter.1 hu
    have := hd u hu1
    simp only [Span.has, decide_eq_true_eq] at hb hu2; omega
  simp only [Span.add, hlt, if_false]
  rw [unlistedByte_append, unlistedByte_append]
  simp [hf, hn, unlistedByte_cons]

/-! ## The arena's bytes -/

theorem State.arenaByte_eq (s : State) (b : Nat) :
    s.arenaByte b = (Memory.find s.mem b).getD (unlistedByte s.unspecified b) := by
  unfold State.arenaByte; cases Memory.find s.mem b <;> rfl

/-- A write leaves every other byte alone. -/
theorem arenaByte_writeBytes_outside (s : State) (a : Nat) (bs : List Byte) (b : Nat)
    (h : b < a ∨ a + bs.length ≤ b) : (s.writeBytes a bs).arenaByte b = s.arenaByte b := by
  simp only [State.arenaByte_eq, State.writeBytes]
  rw [Memory.find_put_outside s.mem a bs b h, unlistedByte_cut_outside s.unspecified a _ b h]

/-- A byte written reads as written. -/
theorem arenaByte_writeBytes_inside (s : State) (a : Nat) (bs : List Byte) (i : Nat) (h : i < bs.length) :
    (s.writeBytes a bs).arenaByte (a + i) = bs[i] := by
  simp only [State.arenaByte_eq, State.writeBytes]
  rw [unlistedByte_cut_inside s.unspecified a (a + bs.length) (a + i) (by omega)]
  exact Memory.find_put_inside s.mem a bs i h

/-- What zeroing a range does to every byte. -/
theorem arenaByte_zeroRange (s : State) (lo hi b : Nat) :
    (s.zeroRange lo hi).arenaByte b = if lo ≤ b ∧ b < hi then 0#8 else s.arenaByte b := by
  simp only [State.arenaByte_eq, State.zeroRange, Memory.find_clear]
  by_cases h : lo ≤ b ∧ b < hi
  · simp [h, unlistedByte_cut_inside s.unspecified lo hi b h]
  · simp [h, unlistedByte_cut_outside s.unspecified lo hi b (by omega)]

/-- Outside the drawn range every byte reads as before. -/
theorem arenaByte_drawRange_outside (s : State) (lo hi b : Nat) (h : b < lo ∨ hi ≤ b) :
    (s.drawRange lo hi).arenaByte b = s.arenaByte b := by
  simp only [State.arenaByte_eq, State.drawRange, Memory.find_clear]
  rw [unlistedByte_add_outside _ _ _ _ _ (by omega)]
  have : ¬ (max lo s.params.arenaBase ≤ b ∧ b < min hi (s.params.arenaBase + s.params.arenaLen)) := by omega
  rw [if_neg this]

end Sys2Proof.Machine
end

