-- ==== Sys2Proof/Laws/Bitmap.lean ====
section
/-! SUPPORT. What the bitmap operations do: to the words, to the bits, and to the arena's other bytes. -/

namespace Sys2Proof.Machine

/-! ## Little-endian words -/

@[simp] theorem leBytes_length (n v : Nat) : (leBytes n v).length = n := by
  induction n generalizing v with
  | zero => rfl
  | succ n ih => simp [leBytes, ih]

theorem leBytes_getElem (n v i : Nat) (h : i < (leBytes n v).length) :
    (leBytes n v)[i] = BitVec.ofNat 8 (v / 256 ^ i) := by
  induction n generalizing v i with
  | zero => simp [leBytes] at h
  | succ n ih =>
    cases i with
    | zero => simp [leBytes]
    | succ i =>
      simp only [leBytes, List.getElem_cons_succ]
      rw [ih (v / 256) i (by simpa [leBytes] using h), Nat.div_div_eq_div_mul, pow_succ']

/-- A bit of a little-endian number is a bit of one of its bytes (20_memory R54). -/
theorem memRead_testBit (s : State) (a n b : Nat) (h : b < 8 * n) :
    (s.memRead a n).testBit b = (s.arenaByte (a + b / 8)).getLsbD (b % 8) := by
  induction n generalizing a b with
  | zero => omega
  | succ n ih =>
    have e : s.memRead a (n + 1) = 2 ^ 8 * s.memRead (a + 1) n + (s.arenaByte a).toNat := by
      simp only [State.memRead]; omega
    rw [e, Nat.testBit_two_pow_mul_add _ (s.arenaByte a).isLt]
    by_cases hb : b < 8
    · have h0 : b / 8 = 0 := by omega
      have h1 : b % 8 = b := by omega
      simp [hb, h0, h1, BitVec.getLsbD]
    · rw [if_neg hb, ih (a + 1) (b - 8) (by omega)]
      have h0 : a + 1 + (b - 8) / 8 = a + b / 8 := by omega
      have h1 : (b - 8) % 8 = b % 8 := by omega
      rw [h0, h1]

/-- A bit of a bitmap word is a bit of one of its eight bytes (20_memory R54). -/
theorem bm_getLsbD (s : State) (w b : Nat) (h : b < 64) :
    (s.bm w).getLsbD b = (s.arenaByte (s.wordAddr w + b / 8)).getLsbD (b % 8) := by
  simp only [State.bm, BitVec.getLsbD_ofNat, h, decide_true, Bool.true_and]
  exact memRead_testBit s _ 8 b (by omega)

/-- `bit(j)` is bit `j mod 8` of the byte at `BASE + j div 8` (00_scope R14; 20_memory R54). -/
theorem bit_eq_byte (s : State) (j : Nat) : s.bit j = (s.arenaByte (s.base + j / 8)).getLsbD (j % 8) := by
  rw [State.bit, bm_getLsbD s _ _ (by omega)]
  have h0 : s.wordAddr (j / 64) + j % 64 / 8 = s.base + j / 8 := by simp only [State.wordAddr]; omega
  have h1 : j % 64 % 8 = j % 8 := by omega
  rw [h0, h1]

/-- Two states whose bitmap base and bytes agree have the same word. -/
theorem bm_congr (s t : State) (w : Nat) (hb : t.base = s.base)
    (h : ∀ i, i < 8 → t.arenaByte (s.wordAddr w + i) = s.arenaByte (s.wordAddr w + i)) : t.bm w = s.bm w := by
  have hw : t.wordAddr w = s.wordAddr w := by simp [State.wordAddr, hb]
  apply BitVec.eq_of_getLsbD_eq
  intro b hb64
  rw [bm_getLsbD t w b hb64, bm_getLsbD s w b hb64, hw, h (b / 8) (by omega)]

/-- Two states whose bitmap base and word agree have the same bits there. -/
theorem bit_congr (s t : State) (j : Nat) (h : t.bm (j / 64) = s.bm (j / 64)) : t.bit j = s.bit j := by
  simp [State.bit, h]

/-- A word read after its eight bytes were written little-endian. -/
theorem bm_of_bytes (s : State) (w : Nat) (x : Word)
    (h : ∀ i, i < 8 → s.arenaByte (s.wordAddr w + i) = BitVec.ofNat 8 (x.toNat / 256 ^ i)) : s.bm w = x := by
  apply BitVec.eq_of_getLsbD_eq
  intro b hb
  rw [bm_getLsbD s w b hb, h (b / 8) (by omega), BitVec.getLsbD_ofNat]
  have e : (256 : Nat) ^ (b / 8) = 2 ^ (8 * (b / 8)) := by rw [pow_mul]; norm_num
  rw [e, Nat.testBit_div_two_pow]
  have h1 : b % 8 < 8 := by omega
  have h2 : b % 8 + 8 * (b / 8) = b := by omega
  simp [h1, h2, BitVec.getLsbD]

/-! ## Frames and words -/

theorem ones_getLsbD (n b : Nat) (h : b < 64) : (ones n).getLsbD b = decide (b < n) := by
  rw [ones, BitVec.getLsbD_ofNat, Nat.testBit_two_pow_sub_one]; simp [h]

/-- The bits of a frame mask (41_frame_allocator R101). -/
theorem frameMask_getLsbD (k n w b : Nat) (h : b < 64) :
    (frameMask k n w).getLsbD b = decide (k ≤ 64 * w + b ∧ 64 * w + b < k + n) := by
  simp only [frameMask, BitVec.getLsbD_and, BitVec.getLsbD_not, ones_getLsbD _ b h, h, decide_true, Bool.true_and]
  rw [Bool.eq_iff_iff]
  simp only [Bool.and_eq_true, decide_eq_true_eq, Bool.not_eq_true', decide_eq_false_iff_not]
  omega

theorem mem_wordsOf (k n w : Nat) : w ∈ wordsOf k n ↔ 0 < n ∧ k / 64 ≤ w ∧ w ≤ (k + n - 1) / 64 := by
  simp only [wordsOf, wordSpread, List.mem_range'_1]
  by_cases hn : n = 0
  · simp [hn]
  · simp only [hn, if_false]; omega

theorem div_mem_wordsOf (k n j : Nat) (h : k ≤ j ∧ j < k + n) : j / 64 ∈ wordsOf k n := by
  rw [mem_wordsOf]; omega

/-- The bytes of a run of words, by index. -/
theorem flatMap_leBytes_getElem? (g : Nat → Nat) (start m i : Nat) (h : i < 8 * m) :
    ((List.range' start m).flatMap (fun w => leBytes 8 (g w)))[i]? =
      some (BitVec.ofNat 8 (g (start + i / 8) / 256 ^ (i % 8))) := by
  induction m generalizing start i with
  | zero => omega
  | succ m ih =>
    rw [List.range'_succ, List.flatMap_cons]
    by_cases hi : i < 8
    · have h0 : i / 8 = 0 := by omega
      have h1 : i % 8 = i := by omega
      rw [List.getElem?_append_left (by simpa using hi), List.getElem?_eq_getElem (by simpa using hi),
        leBytes_getElem, h0, h1]
      rfl
    · rw [List.getElem?_append_right (by simp; omega), leBytes_length, ih (start + 1) (i - 8) (by omega)]
      have h0 : start + 1 + (i - 8) / 8 = start + i / 8 := by omega
      have h1 : (i - 8) % 8 = i % 8 := by omega
      rw [h0, h1]

theorem flatMap_leBytes_length (g : Nat → Nat) (l : List Nat) :
    (l.flatMap (fun w => leBytes 8 (g w))).length = 8 * l.length := by
  induction l with
  | nil => rfl
  | cons a l ih => simp [List.flatMap_cons, ih]; omega

theorem updateWords_zero (s : State) (k : Nat) (f : Nat → Word → Word) : s.updateWords k 0 f = s := rfl

/-- An update touches no byte outside its words (41_frame_allocator R101, R102). -/
theorem arenaByte_updateWords_outside (s : State) (k n : Nat) (f : Nat → Word → Word) (b : Nat)
    (h : b < s.wordAddr (k / 64) ∨ s.wordAddr (k / 64) + 8 * wordSpread k n ≤ b) :
    (s.updateWords k n f).arenaByte b = s.arenaByte b := by
  unfold State.updateWords
  split
  · rfl
  · apply arenaByte_writeBytes_outside
    rw [flatMap_leBytes_length (fun w => (f w (s.bm w)).toNat)]
    simpa [wordsOf] using h

theorem base_updateWords (s : State) (k n : Nat) (f : Nat → Word → Word) : (s.updateWords k n f).base = s.base := by
  unfold State.updateWords; split <;> rfl

/-- What an update does to every word. -/
theorem bm_updateWords (s : State) (k n : Nat) (f : Nat → Word → Word) (w : Nat) :
    (s.updateWords k n f).bm w = if w ∈ wordsOf k n then f w (s.bm w) else s.bm w := by
  have hbase := base_updateWords s k n f
  have haddr : (s.updateWords k n f).wordAddr w = s.wordAddr w := by simp [State.wordAddr, hbase]
  split
  · rename_i hw
    rw [mem_wordsOf] at hw
    have hn : n ≠ 0 := by omega
    apply bm_of_bytes
    intro i hi
    rw [haddr]
    have hm : 8 * (w - k / 64) + i < 8 * wordSpread k n := by simp only [wordSpread, hn, if_false]; omega
    have hget := flatMap_leBytes_getElem? (fun w => (f w (s.bm w)).toNat) (k / 64) (wordSpread k n)
      (8 * (w - k / 64) + i) hm
    have hlen : 8 * (w - k / 64) + i <
        ((wordsOf k n).flatMap (fun w => leBytes 8 (f w (s.bm w)).toNat)).length := by
      rw [flatMap_leBytes_length (fun w => (f w (s.bm w)).toNat)]; simpa [wordsOf] using hm
    have hin := arenaByte_writeBytes_inside s (s.wordAddr (k / 64)) _ _ hlen
    have h0 : s.wordAddr (k / 64) + (8 * (w - k / 64) + i) = s.wordAddr w + i := by
      simp only [State.wordAddr]; omega
    have h1 : k / 64 + (8 * (w - k / 64) + i) / 8 = w := by omega
    have h2 : (8 * (w - k / 64) + i) % 8 = i := by omega
    rw [h0] at hin
    rw [h1, h2, show List.range' (k / 64) (wordSpread k n) = wordsOf k n from rfl,
      List.getElem?_eq_getElem hlen, Option.some.injEq] at hget
    simp only [State.updateWords, hn, if_false]
    rw [hin, hget]
  · rename_i hw
    rw [mem_wordsOf] at hw
    apply bm_congr s _ w hbase
    intro i hi
    apply arenaByte_updateWords_outside
    simp only [State.wordAddr, wordSpread]
    by_cases hn : n = 0
    · simp only [hn, if_true]; omega
    · simp only [hn, if_false]; omega

/-- What `SetFrames` does to every bit (41_frame_allocator R101). -/
theorem bit_setFrames (s : State) (k n j : Nat) :
    (s.setFrames k n).bit j = (s.bit j || decide (k ≤ j ∧ j < k + n)) := by
  have hb : j % 64 < 64 := by omega
  have hj : 64 * (j / 64) + j % 64 = j := by omega
  simp only [State.bit, State.setFrames, bm_updateWords]
  by_cases hw : j / 64 ∈ wordsOf k n
  · simp only [hw, if_true, BitVec.getLsbD_or, frameMask_getLsbD k n _ _ hb, hj]
  · have : ¬ (k ≤ j ∧ j < k + n) := fun h => hw (div_mem_wordsOf k n j h)
    simp [hw, this]

/-- What `ClearFrames` does to every bit (41_frame_allocator R102). -/
theorem bit_clearFrames (s : State) (k n j : Nat) :
    (s.clearFrames k n).bit j = (s.bit j && !decide (k ≤ j ∧ j < k + n)) := by
  have hb : j % 64 < 64 := by omega
  have hj : 64 * (j / 64) + j % 64 = j := by omega
  simp only [State.bit, State.clearFrames, bm_updateWords]
  by_cases hw : j / 64 ∈ wordsOf k n
  · simp only [hw, if_true, BitVec.getLsbD_and, BitVec.getLsbD_not, hb, decide_true, Bool.true_and,
      frameMask_getLsbD k n _ _ hb, hj]
  · have : ¬ (k ≤ j ∧ j < k + n) := fun h => hw (div_mem_wordsOf k n j h)
    simp [hw, this]

/-- `AllUsed` is what its rule says (41_frame_allocator R103). -/
theorem allUsed_iff (s : State) (k n : Nat) : s.allUsed k n = true ↔ ∀ j, k ≤ j → j < k + n → s.bit j = true := by
  simp only [State.allUsed, List.all_eq_true, beq_iff_eq]
  constructor
  · intro h j h1 h2
    have hb : j % 64 < 64 := by omega
    have hj : 64 * (j / 64) + j % 64 = j := by omega
    have hw := congrArg (fun x => x.getLsbD (j % 64)) (h (j / 64) (div_mem_wordsOf k n j ⟨h1, h2⟩))
    simp only [BitVec.getLsbD_and, frameMask_getLsbD k n _ _ hb, hj, h1, h2, and_self, decide_true,
      Bool.and_true] at hw
    exact hw
  · intro h w _
    apply BitVec.eq_of_getLsbD_eq
    intro b hb
    simp only [BitVec.getLsbD_and, frameMask_getLsbD k n w b hb]
    by_cases hk : k ≤ 64 * w + b ∧ 64 * w + b < k + n
    · have := h (64 * w + b) hk.1 hk.2
      have e1 : (64 * w + b) / 64 = w := by omega
      have e2 : (64 * w + b) % 64 = b := by omega
      simp only [State.bit, e1, e2] at this
      simp [this]
    · simp [hk]

end Sys2Proof.Machine
end

