-- ==== Sys2Proof/Laws/State.lean ====
section
/-! SUPPORT. One lemma per field per update of State, and per field of STATUS, true by unfolding, so that no later proof
unfolds a record update. -/

namespace Sys2Proof.Machine

/-! ## STATUS -/

@[simp] theorem Status.accept_busy (t : Status) : t.accept.busy = true := rfl
@[simp] theorem Status.accept_done (t : Status) : t.accept.done = false := rfl
@[simp] theorem Status.accept_err (t : Status) : t.accept.err = false := rfl
@[simp] theorem Status.accept_initDone (t : Status) : t.accept.initDone = t.initDone := rfl
@[simp] theorem Status.accept_fatal (t : Status) : t.accept.fatal = t.fatal := rfl
@[simp] theorem Status.accept_overrun (t : Status) : t.accept.overrun = t.overrun := rfl
@[simp] theorem Status.accept_errcode (t : Status) : t.accept.errcode = 0#4 := rfl

@[simp] theorem Status.finishOk_busy (t : Status) : t.finishOk.busy = t.busy := rfl
@[simp] theorem Status.finishOk_done (t : Status) : t.finishOk.done = true := rfl
@[simp] theorem Status.finishOk_err (t : Status) : t.finishOk.err = false := rfl
@[simp] theorem Status.finishOk_initDone (t : Status) : t.finishOk.initDone = t.initDone := rfl
@[simp] theorem Status.finishOk_fatal (t : Status) : t.finishOk.fatal = t.fatal := rfl
@[simp] theorem Status.finishOk_overrun (t : Status) : t.finishOk.overrun = t.overrun := rfl
@[simp] theorem Status.finishOk_errcode (t : Status) : t.finishOk.errcode = 0#4 := rfl

@[simp] theorem Status.raised_busy (t : Status) (e : Error) : (t.raised e).busy = t.busy := rfl
@[simp] theorem Status.raised_done (t : Status) (e : Error) : (t.raised e).done = true := rfl
@[simp] theorem Status.raised_err (t : Status) (e : Error) : (t.raised e).err = true := rfl
@[simp] theorem Status.raised_initDone (t : Status) (e : Error) : (t.raised e).initDone = t.initDone := rfl
@[simp] theorem Status.raised_fatal (t : Status) (e : Error) : (t.raised e).fatal = (t.fatal || decide (e ≠ .allocationExhausted)) := rfl
@[simp] theorem Status.raised_overrun (t : Status) (e : Error) : (t.raised e).overrun = t.overrun := rfl
@[simp] theorem Status.raised_errcode (t : Status) (e : Error) : (t.raised e).errcode = e.code := rfl

@[simp] theorem Status.overran_busy (t : Status) : t.overran.busy = t.busy := rfl
@[simp] theorem Status.overran_done (t : Status) : t.overran.done = t.done := rfl
@[simp] theorem Status.overran_err (t : Status) : t.overran.err = t.err := rfl
@[simp] theorem Status.overran_initDone (t : Status) : t.overran.initDone = t.initDone := rfl
@[simp] theorem Status.overran_fatal (t : Status) : t.overran.fatal = t.fatal := rfl
@[simp] theorem Status.overran_overrun (t : Status) : t.overran.overrun = true := rfl
@[simp] theorem Status.overran_errcode (t : Status) : t.overran.errcode = t.errcode := rfl

/-! ## finishOk -/

@[simp] theorem finishOk_params (r0 r1 r2 r3 : Word) (s : State) :
    (finishOk r0 r1 r2 r3 s).params = s.params := rfl
@[simp] theorem finishOk_cmd (r0 r1 r2 r3 : Word) (s : State) :
    (finishOk r0 r1 r2 r3 s).cmd = s.cmd := rfl
@[simp] theorem finishOk_opa (r0 r1 r2 r3 : Word) (s : State) :
    (finishOk r0 r1 r2 r3 s).opa = s.opa := rfl
@[simp] theorem finishOk_opb (r0 r1 r2 r3 : Word) (s : State) :
    (finishOk r0 r1 r2 r3 s).opb = s.opb := rfl
@[simp] theorem finishOk_status (r0 r1 r2 r3 : Word) (s : State) :
    (finishOk r0 r1 r2 r3 s).status = s.status.finishOk := rfl
@[simp] theorem finishOk_res0 (r0 r1 r2 r3 : Word) (s : State) :
    (finishOk r0 r1 r2 r3 s).res0 = r0 := rfl
@[simp] theorem finishOk_res1 (r0 r1 r2 r3 : Word) (s : State) :
    (finishOk r0 r1 r2 r3 s).res1 = r1 := rfl
@[simp] theorem finishOk_res2 (r0 r1 r2 r3 : Word) (s : State) :
    (finishOk r0 r1 r2 r3 s).res2 = r2 := rfl
@[simp] theorem finishOk_res3 (r0 r1 r2 r3 : Word) (s : State) :
    (finishOk r0 r1 r2 r3 s).res3 = r3 := rfl
@[simp] theorem finishOk_cfgBase (r0 r1 r2 r3 : Word) (s : State) :
    (finishOk r0 r1 r2 r3 s).cfgBase = s.cfgBase := rfl
@[simp] theorem finishOk_cfgNFrames (r0 r1 r2 r3 : Word) (s : State) :
    (finishOk r0 r1 r2 r3 s).cfgNFrames = s.cfgNFrames := rfl
@[simp] theorem finishOk_cfgNWords (r0 r1 r2 r3 : Word) (s : State) :
    (finishOk r0 r1 r2 r3 s).cfgNWords = s.cfgNWords := rfl
@[simp] theorem finishOk_cfgBmFrames (r0 r1 r2 r3 : Word) (s : State) :
    (finishOk r0 r1 r2 r3 s).cfgBmFrames = s.cfgBmFrames := rfl
@[simp] theorem finishOk_mem (r0 r1 r2 r3 : Word) (s : State) :
    (finishOk r0 r1 r2 r3 s).mem = s.mem := rfl
@[simp] theorem finishOk_unspecified (r0 r1 r2 r3 : Word) (s : State) :
    (finishOk r0 r1 r2 r3 s).unspecified = s.unspecified := rfl
@[simp] theorem finishOk_raced (r0 r1 r2 r3 : Word) (s : State) :
    (finishOk r0 r1 r2 r3 s).raced = s.raced := rfl
@[simp] theorem finishOk_draws (r0 r1 r2 r3 : Word) (s : State) :
    (finishOk r0 r1 r2 r3 s).draws = s.draws := rfl
@[simp] theorem finishOk_agenda (r0 r1 r2 r3 : Word) (s : State) :
    (finishOk r0 r1 r2 r3 s).agenda = s.agenda := rfl
@[simp] theorem finishOk_lastRead (r0 r1 r2 r3 : Word) (s : State) :
    (finishOk r0 r1 r2 r3 s).lastRead = s.lastRead := rfl
@[simp] theorem finishOk_portUser (r0 r1 r2 r3 : Word) (s : State) :
    (finishOk r0 r1 r2 r3 s).portUser = s.portUser := rfl
@[simp] theorem finishOk_arenaByte (r0 r1 r2 r3 : Word) (s : State) (a : Nat) :
    (finishOk r0 r1 r2 r3 s).arenaByte a = s.arenaByte a := rfl
@[simp] theorem finishOk_bm (r0 r1 r2 r3 : Word) (s : State) (w : Nat) :
    (finishOk r0 r1 r2 r3 s).bm w = s.bm w := by
  apply bm_congr s (finishOk r0 r1 r2 r3 s) w rfl; intro i _; rfl
@[simp] theorem finishOk_bit (r0 r1 r2 r3 : Word) (s : State) (j : Nat) :
    (finishOk r0 r1 r2 r3 s).bit j = s.bit j := by
  simp [State.bit]
@[simp] theorem finishOk_base (r0 r1 r2 r3 : Word) (s : State) :
    (finishOk r0 r1 r2 r3 s).base = s.base := rfl
@[simp] theorem finishOk_numFrames (r0 r1 r2 r3 : Word) (s : State) :
    (finishOk r0 r1 r2 r3 s).numFrames = s.numFrames := rfl
@[simp] theorem finishOk_numWords (r0 r1 r2 r3 : Word) (s : State) :
    (finishOk r0 r1 r2 r3 s).numWords = s.numWords := rfl
@[simp] theorem finishOk_bmFrames (r0 r1 r2 r3 : Word) (s : State) :
    (finishOk r0 r1 r2 r3 s).bmFrames = s.bmFrames := rfl

/-! ## raise -/

@[simp] theorem raise_params (e : Error) (s : State) :
    (raise e s).params = s.params := rfl
@[simp] theorem raise_cmd (e : Error) (s : State) :
    (raise e s).cmd = s.cmd := rfl
@[simp] theorem raise_opa (e : Error) (s : State) :
    (raise e s).opa = s.opa := rfl
@[simp] theorem raise_opb (e : Error) (s : State) :
    (raise e s).opb = s.opb := rfl
@[simp] theorem raise_status (e : Error) (s : State) :
    (raise e s).status = s.status.raised e := rfl
@[simp] theorem raise_res0 (e : Error) (s : State) :
    (raise e s).res0 = 0#64 := rfl
@[simp] theorem raise_res1 (e : Error) (s : State) :
    (raise e s).res1 = 0#64 := rfl
@[simp] theorem raise_res2 (e : Error) (s : State) :
    (raise e s).res2 = 0#64 := rfl
@[simp] theorem raise_res3 (e : Error) (s : State) :
    (raise e s).res3 = 0#64 := rfl
@[simp] theorem raise_cfgBase (e : Error) (s : State) :
    (raise e s).cfgBase = s.cfgBase := rfl
@[simp] theorem raise_cfgNFrames (e : Error) (s : State) :
    (raise e s).cfgNFrames = s.cfgNFrames := rfl
@[simp] theorem raise_cfgNWords (e : Error) (s : State) :
    (raise e s).cfgNWords = s.cfgNWords := rfl
@[simp] theorem raise_cfgBmFrames (e : Error) (s : State) :
    (raise e s).cfgBmFrames = s.cfgBmFrames := rfl
@[simp] theorem raise_mem (e : Error) (s : State) :
    (raise e s).mem = s.mem := rfl
@[simp] theorem raise_unspecified (e : Error) (s : State) :
    (raise e s).unspecified = s.unspecified := rfl
@[simp] theorem raise_raced (e : Error) (s : State) :
    (raise e s).raced = s.raced := rfl
@[simp] theorem raise_draws (e : Error) (s : State) :
    (raise e s).draws = s.draws := rfl
@[simp] theorem raise_agenda (e : Error) (s : State) :
    (raise e s).agenda = s.agenda := rfl
@[simp] theorem raise_lastRead (e : Error) (s : State) :
    (raise e s).lastRead = s.lastRead := rfl
@[simp] theorem raise_portUser (e : Error) (s : State) :
    (raise e s).portUser = s.portUser := rfl
@[simp] theorem raise_arenaByte (e : Error) (s : State) (a : Nat) :
    (raise e s).arenaByte a = s.arenaByte a := rfl
@[simp] theorem raise_bm (e : Error) (s : State) (w : Nat) :
    (raise e s).bm w = s.bm w := by
  apply bm_congr s (raise e s) w rfl; intro i _; rfl
@[simp] theorem raise_bit (e : Error) (s : State) (j : Nat) :
    (raise e s).bit j = s.bit j := by
  simp [State.bit]
@[simp] theorem raise_base (e : Error) (s : State) :
    (raise e s).base = s.base := rfl
@[simp] theorem raise_numFrames (e : Error) (s : State) :
    (raise e s).numFrames = s.numFrames := rfl
@[simp] theorem raise_numWords (e : Error) (s : State) :
    (raise e s).numWords = s.numWords := rfl
@[simp] theorem raise_bmFrames (e : Error) (s : State) :
    (raise e s).bmFrames = s.bmFrames := rfl

/-! ## endPerform -/

@[simp] theorem endPerform_params (s : State) :
    (endPerform s).params = s.params := rfl
@[simp] theorem endPerform_cmd (s : State) :
    (endPerform s).cmd = s.cmd := rfl
@[simp] theorem endPerform_opa (s : State) :
    (endPerform s).opa = s.opa := rfl
@[simp] theorem endPerform_opb (s : State) :
    (endPerform s).opb = s.opb := rfl
@[simp] theorem endPerform_status (s : State) :
    (endPerform s).status = { s.status with busy := false } := rfl
@[simp] theorem endPerform_res0 (s : State) :
    (endPerform s).res0 = s.res0 := rfl
@[simp] theorem endPerform_res1 (s : State) :
    (endPerform s).res1 = s.res1 := rfl
@[simp] theorem endPerform_res2 (s : State) :
    (endPerform s).res2 = s.res2 := rfl
@[simp] theorem endPerform_res3 (s : State) :
    (endPerform s).res3 = s.res3 := rfl
@[simp] theorem endPerform_cfgBase (s : State) :
    (endPerform s).cfgBase = s.cfgBase := rfl
@[simp] theorem endPerform_cfgNFrames (s : State) :
    (endPerform s).cfgNFrames = s.cfgNFrames := rfl
@[simp] theorem endPerform_cfgNWords (s : State) :
    (endPerform s).cfgNWords = s.cfgNWords := rfl
@[simp] theorem endPerform_cfgBmFrames (s : State) :
    (endPerform s).cfgBmFrames = s.cfgBmFrames := rfl
@[simp] theorem endPerform_mem (s : State) :
    (endPerform s).mem = s.mem := rfl
@[simp] theorem endPerform_unspecified (s : State) :
    (endPerform s).unspecified = s.unspecified := rfl
@[simp] theorem endPerform_raced (s : State) :
    (endPerform s).raced = [] := rfl
@[simp] theorem endPerform_draws (s : State) :
    (endPerform s).draws = s.draws := rfl
@[simp] theorem endPerform_agenda (s : State) :
    (endPerform s).agenda = s.agenda := rfl
@[simp] theorem endPerform_lastRead (s : State) :
    (endPerform s).lastRead = s.lastRead := rfl
@[simp] theorem endPerform_portUser (s : State) :
    (endPerform s).portUser = s.portUser := rfl
@[simp] theorem endPerform_arenaByte (s : State) (a : Nat) :
    (endPerform s).arenaByte a = s.arenaByte a := rfl
@[simp] theorem endPerform_bm (s : State) (w : Nat) :
    (endPerform s).bm w = s.bm w := by
  apply bm_congr s (endPerform s) w rfl; intro i _; rfl
@[simp] theorem endPerform_bit (s : State) (j : Nat) :
    (endPerform s).bit j = s.bit j := by
  simp [State.bit]
@[simp] theorem endPerform_base (s : State) :
    (endPerform s).base = s.base := rfl
@[simp] theorem endPerform_numFrames (s : State) :
    (endPerform s).numFrames = s.numFrames := rfl
@[simp] theorem endPerform_numWords (s : State) :
    (endPerform s).numWords = s.numWords := rfl
@[simp] theorem endPerform_bmFrames (s : State) :
    (endPerform s).bmFrames = s.bmFrames := rfl

/-! ## acceptCommand -/

@[simp] theorem acceptCommand_params (v : Word) (s : State) :
    (acceptCommand v s).params = s.params := rfl
@[simp] theorem acceptCommand_cmd (v : Word) (s : State) :
    (acceptCommand v s).cmd = v := rfl
@[simp] theorem acceptCommand_opa (v : Word) (s : State) :
    (acceptCommand v s).opa = s.opa := rfl
@[simp] theorem acceptCommand_opb (v : Word) (s : State) :
    (acceptCommand v s).opb = s.opb := rfl
@[simp] theorem acceptCommand_status (v : Word) (s : State) :
    (acceptCommand v s).status = s.status.accept := rfl
@[simp] theorem acceptCommand_res0 (v : Word) (s : State) :
    (acceptCommand v s).res0 = s.res0 := rfl
@[simp] theorem acceptCommand_res1 (v : Word) (s : State) :
    (acceptCommand v s).res1 = s.res1 := rfl
@[simp] theorem acceptCommand_res2 (v : Word) (s : State) :
    (acceptCommand v s).res2 = s.res2 := rfl
@[simp] theorem acceptCommand_res3 (v : Word) (s : State) :
    (acceptCommand v s).res3 = s.res3 := rfl
@[simp] theorem acceptCommand_cfgBase (v : Word) (s : State) :
    (acceptCommand v s).cfgBase = s.cfgBase := rfl
@[simp] theorem acceptCommand_cfgNFrames (v : Word) (s : State) :
    (acceptCommand v s).cfgNFrames = s.cfgNFrames := rfl
@[simp] theorem acceptCommand_cfgNWords (v : Word) (s : State) :
    (acceptCommand v s).cfgNWords = s.cfgNWords := rfl
@[simp] theorem acceptCommand_cfgBmFrames (v : Word) (s : State) :
    (acceptCommand v s).cfgBmFrames = s.cfgBmFrames := rfl
@[simp] theorem acceptCommand_mem (v : Word) (s : State) :
    (acceptCommand v s).mem = s.mem := rfl
@[simp] theorem acceptCommand_unspecified (v : Word) (s : State) :
    (acceptCommand v s).unspecified = s.unspecified := rfl
@[simp] theorem acceptCommand_raced (v : Word) (s : State) :
    (acceptCommand v s).raced = s.raced := rfl
@[simp] theorem acceptCommand_draws (v : Word) (s : State) :
    (acceptCommand v s).draws = s.draws := rfl
@[simp] theorem acceptCommand_agenda (v : Word) (s : State) :
    (acceptCommand v s).agenda = s.agenda := rfl
@[simp] theorem acceptCommand_lastRead (v : Word) (s : State) :
    (acceptCommand v s).lastRead = s.lastRead := rfl
@[simp] theorem acceptCommand_portUser (v : Word) (s : State) :
    (acceptCommand v s).portUser = s.portUser := rfl
@[simp] theorem acceptCommand_arenaByte (v : Word) (s : State) (a : Nat) :
    (acceptCommand v s).arenaByte a = s.arenaByte a := rfl
@[simp] theorem acceptCommand_bm (v : Word) (s : State) (w : Nat) :
    (acceptCommand v s).bm w = s.bm w := by
  apply bm_congr s (acceptCommand v s) w rfl; intro i _; rfl
@[simp] theorem acceptCommand_bit (v : Word) (s : State) (j : Nat) :
    (acceptCommand v s).bit j = s.bit j := by
  simp [State.bit]
@[simp] theorem acceptCommand_base (v : Word) (s : State) :
    (acceptCommand v s).base = s.base := rfl
@[simp] theorem acceptCommand_numFrames (v : Word) (s : State) :
    (acceptCommand v s).numFrames = s.numFrames := rfl
@[simp] theorem acceptCommand_numWords (v : Word) (s : State) :
    (acceptCommand v s).numWords = s.numWords := rfl
@[simp] theorem acceptCommand_bmFrames (v : Word) (s : State) :
    (acceptCommand v s).bmFrames = s.bmFrames := rfl

/-! ## writeBytes -/

@[simp] theorem writeBytes_params (s : State) (a : Nat) (bs : List Byte) :
    (s.writeBytes a bs).params = s.params := rfl
@[simp] theorem writeBytes_cmd (s : State) (a : Nat) (bs : List Byte) :
    (s.writeBytes a bs).cmd = s.cmd := rfl
@[simp] theorem writeBytes_opa (s : State) (a : Nat) (bs : List Byte) :
    (s.writeBytes a bs).opa = s.opa := rfl
@[simp] theorem writeBytes_opb (s : State) (a : Nat) (bs : List Byte) :
    (s.writeBytes a bs).opb = s.opb := rfl
@[simp] theorem writeBytes_status (s : State) (a : Nat) (bs : List Byte) :
    (s.writeBytes a bs).status = s.status := rfl
@[simp] theorem writeBytes_res0 (s : State) (a : Nat) (bs : List Byte) :
    (s.writeBytes a bs).res0 = s.res0 := rfl
@[simp] theorem writeBytes_res1 (s : State) (a : Nat) (bs : List Byte) :
    (s.writeBytes a bs).res1 = s.res1 := rfl
@[simp] theorem writeBytes_res2 (s : State) (a : Nat) (bs : List Byte) :
    (s.writeBytes a bs).res2 = s.res2 := rfl
@[simp] theorem writeBytes_res3 (s : State) (a : Nat) (bs : List Byte) :
    (s.writeBytes a bs).res3 = s.res3 := rfl
@[simp] theorem writeBytes_cfgBase (s : State) (a : Nat) (bs : List Byte) :
    (s.writeBytes a bs).cfgBase = s.cfgBase := rfl
@[simp] theorem writeBytes_cfgNFrames (s : State) (a : Nat) (bs : List Byte) :
    (s.writeBytes a bs).cfgNFrames = s.cfgNFrames := rfl
@[simp] theorem writeBytes_cfgNWords (s : State) (a : Nat) (bs : List Byte) :
    (s.writeBytes a bs).cfgNWords = s.cfgNWords := rfl
@[simp] theorem writeBytes_cfgBmFrames (s : State) (a : Nat) (bs : List Byte) :
    (s.writeBytes a bs).cfgBmFrames = s.cfgBmFrames := rfl
@[simp] theorem writeBytes_mem (s : State) (a : Nat) (bs : List Byte) :
    (s.writeBytes a bs).mem = Memory.put s.mem a bs := rfl
@[simp] theorem writeBytes_unspecified (s : State) (a : Nat) (bs : List Byte) :
    (s.writeBytes a bs).unspecified = Span.cut s.unspecified a (a + bs.length) := rfl
@[simp] theorem writeBytes_raced (s : State) (a : Nat) (bs : List Byte) :
    (s.writeBytes a bs).raced = s.raced := rfl
@[simp] theorem writeBytes_draws (s : State) (a : Nat) (bs : List Byte) :
    (s.writeBytes a bs).draws = s.draws := rfl
@[simp] theorem writeBytes_agenda (s : State) (a : Nat) (bs : List Byte) :
    (s.writeBytes a bs).agenda = s.agenda := rfl
@[simp] theorem writeBytes_lastRead (s : State) (a : Nat) (bs : List Byte) :
    (s.writeBytes a bs).lastRead = s.lastRead := rfl
@[simp] theorem writeBytes_portUser (s : State) (a : Nat) (bs : List Byte) :
    (s.writeBytes a bs).portUser = s.portUser := rfl

/-! ## zeroRange -/

@[simp] theorem zeroRange_params (s : State) (lo hi : Nat) :
    (s.zeroRange lo hi).params = s.params := rfl
@[simp] theorem zeroRange_cmd (s : State) (lo hi : Nat) :
    (s.zeroRange lo hi).cmd = s.cmd := rfl
@[simp] theorem zeroRange_opa (s : State) (lo hi : Nat) :
    (s.zeroRange lo hi).opa = s.opa := rfl
@[simp] theorem zeroRange_opb (s : State) (lo hi : Nat) :
    (s.zeroRange lo hi).opb = s.opb := rfl
@[simp] theorem zeroRange_status (s : State) (lo hi : Nat) :
    (s.zeroRange lo hi).status = s.status := rfl
@[simp] theorem zeroRange_res0 (s : State) (lo hi : Nat) :
    (s.zeroRange lo hi).res0 = s.res0 := rfl
@[simp] theorem zeroRange_res1 (s : State) (lo hi : Nat) :
    (s.zeroRange lo hi).res1 = s.res1 := rfl
@[simp] theorem zeroRange_res2 (s : State) (lo hi : Nat) :
    (s.zeroRange lo hi).res2 = s.res2 := rfl
@[simp] theorem zeroRange_res3 (s : State) (lo hi : Nat) :
    (s.zeroRange lo hi).res3 = s.res3 := rfl
@[simp] theorem zeroRange_cfgBase (s : State) (lo hi : Nat) :
    (s.zeroRange lo hi).cfgBase = s.cfgBase := rfl
@[simp] theorem zeroRange_cfgNFrames (s : State) (lo hi : Nat) :
    (s.zeroRange lo hi).cfgNFrames = s.cfgNFrames := rfl
@[simp] theorem zeroRange_cfgNWords (s : State) (lo hi : Nat) :
    (s.zeroRange lo hi).cfgNWords = s.cfgNWords := rfl
@[simp] theorem zeroRange_cfgBmFrames (s : State) (lo hi : Nat) :
    (s.zeroRange lo hi).cfgBmFrames = s.cfgBmFrames := rfl
@[simp] theorem zeroRange_mem (s : State) (lo hi : Nat) :
    (s.zeroRange lo hi).mem = Memory.clear s.mem lo hi := rfl
@[simp] theorem zeroRange_unspecified (s : State) (lo hi : Nat) :
    (s.zeroRange lo hi).unspecified = Span.cut s.unspecified lo hi := rfl
@[simp] theorem zeroRange_raced (s : State) (lo hi : Nat) :
    (s.zeroRange lo hi).raced = s.raced := rfl
@[simp] theorem zeroRange_draws (s : State) (lo hi : Nat) :
    (s.zeroRange lo hi).draws = s.draws := rfl
@[simp] theorem zeroRange_agenda (s : State) (lo hi : Nat) :
    (s.zeroRange lo hi).agenda = s.agenda := rfl
@[simp] theorem zeroRange_lastRead (s : State) (lo hi : Nat) :
    (s.zeroRange lo hi).lastRead = s.lastRead := rfl
@[simp] theorem zeroRange_portUser (s : State) (lo hi : Nat) :
    (s.zeroRange lo hi).portUser = s.portUser := rfl

/-! ## drawRange -/

@[simp] theorem drawRange_params (s : State) (lo hi : Nat) :
    (s.drawRange lo hi).params = s.params := rfl
@[simp] theorem drawRange_cmd (s : State) (lo hi : Nat) :
    (s.drawRange lo hi).cmd = s.cmd := rfl
@[simp] theorem drawRange_opa (s : State) (lo hi : Nat) :
    (s.drawRange lo hi).opa = s.opa := rfl
@[simp] theorem drawRange_opb (s : State) (lo hi : Nat) :
    (s.drawRange lo hi).opb = s.opb := rfl
@[simp] theorem drawRange_status (s : State) (lo hi : Nat) :
    (s.drawRange lo hi).status = s.status := rfl
@[simp] theorem drawRange_res0 (s : State) (lo hi : Nat) :
    (s.drawRange lo hi).res0 = s.res0 := rfl
@[simp] theorem drawRange_res1 (s : State) (lo hi : Nat) :
    (s.drawRange lo hi).res1 = s.res1 := rfl
@[simp] theorem drawRange_res2 (s : State) (lo hi : Nat) :
    (s.drawRange lo hi).res2 = s.res2 := rfl
@[simp] theorem drawRange_res3 (s : State) (lo hi : Nat) :
    (s.drawRange lo hi).res3 = s.res3 := rfl
@[simp] theorem drawRange_cfgBase (s : State) (lo hi : Nat) :
    (s.drawRange lo hi).cfgBase = s.cfgBase := rfl
@[simp] theorem drawRange_cfgNFrames (s : State) (lo hi : Nat) :
    (s.drawRange lo hi).cfgNFrames = s.cfgNFrames := rfl
@[simp] theorem drawRange_cfgNWords (s : State) (lo hi : Nat) :
    (s.drawRange lo hi).cfgNWords = s.cfgNWords := rfl
@[simp] theorem drawRange_cfgBmFrames (s : State) (lo hi : Nat) :
    (s.drawRange lo hi).cfgBmFrames = s.cfgBmFrames := rfl
@[simp] theorem drawRange_raced (s : State) (lo hi : Nat) :
    (s.drawRange lo hi).raced = s.raced := rfl
@[simp] theorem drawRange_draws (s : State) (lo hi : Nat) :
    (s.drawRange lo hi).draws = s.draws + 1 := rfl
@[simp] theorem drawRange_agenda (s : State) (lo hi : Nat) :
    (s.drawRange lo hi).agenda = s.agenda := rfl
@[simp] theorem drawRange_lastRead (s : State) (lo hi : Nat) :
    (s.drawRange lo hi).lastRead = s.lastRead := rfl
@[simp] theorem drawRange_portUser (s : State) (lo hi : Nat) :
    (s.drawRange lo hi).portUser = s.portUser := rfl

/-! ## writeCfg -/

@[simp] theorem writeCfg_params (p : InitLayout) (s : State) :
    (writeCfg p s).params = s.params := rfl
@[simp] theorem writeCfg_cmd (p : InitLayout) (s : State) :
    (writeCfg p s).cmd = s.cmd := rfl
@[simp] theorem writeCfg_opa (p : InitLayout) (s : State) :
    (writeCfg p s).opa = s.opa := rfl
@[simp] theorem writeCfg_opb (p : InitLayout) (s : State) :
    (writeCfg p s).opb = s.opb := rfl
@[simp] theorem writeCfg_status (p : InitLayout) (s : State) :
    (writeCfg p s).status = s.status := rfl
@[simp] theorem writeCfg_res0 (p : InitLayout) (s : State) :
    (writeCfg p s).res0 = s.res0 := rfl
@[simp] theorem writeCfg_res1 (p : InitLayout) (s : State) :
    (writeCfg p s).res1 = s.res1 := rfl
@[simp] theorem writeCfg_res2 (p : InitLayout) (s : State) :
    (writeCfg p s).res2 = s.res2 := rfl
@[simp] theorem writeCfg_res3 (p : InitLayout) (s : State) :
    (writeCfg p s).res3 = s.res3 := rfl
@[simp] theorem writeCfg_cfgBase (p : InitLayout) (s : State) :
    (writeCfg p s).cfgBase = BitVec.ofNat 64 p.start := rfl
@[simp] theorem writeCfg_cfgNFrames (p : InitLayout) (s : State) :
    (writeCfg p s).cfgNFrames = BitVec.ofNat 64 p.frames := rfl
@[simp] theorem writeCfg_cfgNWords (p : InitLayout) (s : State) :
    (writeCfg p s).cfgNWords = BitVec.ofNat 64 p.words := rfl
@[simp] theorem writeCfg_cfgBmFrames (p : InitLayout) (s : State) :
    (writeCfg p s).cfgBmFrames = BitVec.ofNat 64 p.bmFrames := rfl
@[simp] theorem writeCfg_mem (p : InitLayout) (s : State) :
    (writeCfg p s).mem = s.mem := rfl
@[simp] theorem writeCfg_unspecified (p : InitLayout) (s : State) :
    (writeCfg p s).unspecified = s.unspecified := rfl
@[simp] theorem writeCfg_raced (p : InitLayout) (s : State) :
    (writeCfg p s).raced = s.raced := rfl
@[simp] theorem writeCfg_draws (p : InitLayout) (s : State) :
    (writeCfg p s).draws = s.draws := rfl
@[simp] theorem writeCfg_agenda (p : InitLayout) (s : State) :
    (writeCfg p s).agenda = s.agenda := rfl
@[simp] theorem writeCfg_lastRead (p : InitLayout) (s : State) :
    (writeCfg p s).lastRead = s.lastRead := rfl
@[simp] theorem writeCfg_portUser (p : InitLayout) (s : State) :
    (writeCfg p s).portUser = s.portUser := rfl
@[simp] theorem writeCfg_arenaByte (p : InitLayout) (s : State) (a : Nat) :
    (writeCfg p s).arenaByte a = s.arenaByte a := rfl

end Sys2Proof.Machine
end

