-- ==== Sys2Proof/Laws/Ops.lean ====
section
/-! SUPPORT. What each shared operation can do, said once: the frames of the bitmap updates, races, plans and moves. -/

namespace Sys2Proof.Machine

/-! ## Frames: every field an operation on bytes leaves alone -/

/-- Two states that differ in nothing but the arena's bytes and the draw counter. -/
structure SameButBytes (s t : State) : Prop where
  params : t.params = s.params
  cmd : t.cmd = s.cmd
  opa : t.opa = s.opa
  opb : t.opb = s.opb
  status : t.status = s.status
  res0 : t.res0 = s.res0
  res1 : t.res1 = s.res1
  res2 : t.res2 = s.res2
  res3 : t.res3 = s.res3
  cfgBase : t.cfgBase = s.cfgBase
  cfgNFrames : t.cfgNFrames = s.cfgNFrames
  cfgNWords : t.cfgNWords = s.cfgNWords
  cfgBmFrames : t.cfgBmFrames = s.cfgBmFrames
  raced : t.raced = s.raced
  agenda : t.agenda = s.agenda
  lastRead : t.lastRead = s.lastRead
  portUser : t.portUser = s.portUser

theorem SameButBytes.refl (s : State) : SameButBytes s s := by constructor <;> rfl

theorem SameButBytes.trans {s t u : State} (h : SameButBytes s t) (g : SameButBytes t u) : SameButBytes s u := by
  constructor <;> first
    | exact g.params.trans h.params | exact g.cmd.trans h.cmd | exact g.opa.trans h.opa | exact g.opb.trans h.opb
    | exact g.status.trans h.status | exact g.res0.trans h.res0 | exact g.res1.trans h.res1
    | exact g.res2.trans h.res2 | exact g.res3.trans h.res3 | exact g.cfgBase.trans h.cfgBase
    | exact g.cfgNFrames.trans h.cfgNFrames | exact g.cfgNWords.trans h.cfgNWords
    | exact g.cfgBmFrames.trans h.cfgBmFrames | exact g.raced.trans h.raced | exact g.agenda.trans h.agenda
    | exact g.lastRead.trans h.lastRead | exact g.portUser.trans h.portUser

theorem SameButBytes.base {s t : State} (h : SameButBytes s t) : t.base = s.base := by simp [State.base, h.cfgBase]

theorem writeBytes_same (s : State) (a : Nat) (bs : List Byte) : SameButBytes s (s.writeBytes a bs) := by
  constructor <;> rfl

theorem zeroRange_same (s : State) (lo hi : Nat) : SameButBytes s (s.zeroRange lo hi) := by constructor <;> rfl

theorem drawRange_same (s : State) (lo hi : Nat) : SameButBytes s (s.drawRange lo hi) := by constructor <;> rfl

/-- A result that fits its register is written as it is (00_scope R10). -/
theorem resultWord_of_lt {x : Nat} (h : x < 2 ^ 64) : resultWord x = BitVec.ofNat 64 x := if_pos h

/-- A result that does not fit is a free value (log 21). -/
theorem resultWord_of_ge {x : Nat} (h : 2 ^ 64 ≤ x) : resultWord x = Config.unfitResult x := if_neg (Nat.not_lt.2 h)

theorem resultWord_toNat {x : Nat} (h : x < 2 ^ 64) : (resultWord x).toNat = x := by
  rw [resultWord_of_lt h, BitVec.toNat_ofNat, Nat.mod_eq_of_lt h]

theorem updateWords_same (s : State) (k n : Nat) (f : Nat → Word → Word) : SameButBytes s (s.updateWords k n f) := by
  unfold State.updateWords
  split
  · exact .refl s
  · exact writeBytes_same s _ _

theorem setFrames_same (s : State) (k n : Nat) : SameButBytes s (s.setFrames k n) := updateWords_same s k n _

theorem clearFrames_same (s : State) (k n : Nat) : SameButBytes s (s.clearFrames k n) := updateWords_same s k n _

@[simp] theorem updateWords_draws (s : State) (k n : Nat) (f : Nat → Word → Word) :
    (s.updateWords k n f).draws = s.draws := by
  unfold State.updateWords
  split <;> rfl

@[simp] theorem setFrames_draws (s : State) (k n : Nat) : (s.setFrames k n).draws = s.draws := updateWords_draws s k n _

@[simp] theorem clearFrames_draws (s : State) (k n : Nat) : (s.clearFrames k n).draws = s.draws :=
  updateWords_draws s k n _

theorem keepHostBytes_same (before : State) (addrs : List Nat) (after : State) :
    SameButBytes after (keepHostBytes before addrs after) := by
  induction addrs generalizing after with
  | nil => exact .refl after
  | cons a rest ih =>
    simp only [keepHostBytes]
    split
    · exact (writeBytes_same after a _).trans (ih _)
    · exact ih after

theorem settleRaces_same (before : State) (lo hi : Nat) (after : State) :
    SameButBytes after (settleRaces before lo hi after) := by
  unfold settleRaces
  split
  · exact .refl after
  · refine SameButBytes.trans ?_ (keepHostBytes_same before _ _)
    constructor <;> rfl

/-! ## Races (20_memory R57) -/

theorem keepHostBytes_outside (before : State) (addrs : List Nat) (after : State) (b : Nat) (h : b ∉ addrs) :
    (keepHostBytes before addrs after).arenaByte b = after.arenaByte b := by
  induction addrs generalizing after with
  | nil => rfl
  | cons a rest ih =>
    simp only [List.mem_cons, not_or] at h
    simp only [keepHostBytes]
    rw [ih _ h.2]
    split
    · apply arenaByte_writeBytes_outside; simp; omega
    · rfl

/-- A settled byte holds the engine's value or the host's. -/
theorem keepHostBytes_either (before : State) (addrs : List Nat) (after : State) (b : Nat) :
    (keepHostBytes before addrs after).arenaByte b = after.arenaByte b ∨
      (keepHostBytes before addrs after).arenaByte b = before.arenaByte b := by
  induction addrs generalizing after with
  | nil => exact .inl rfl
  | cons a rest ih =>
    simp only [keepHostBytes]
    split
    · rcases ih (after.writeBytes a [before.arenaByte a]) with h | h
      · rw [h]
        by_cases hb : b = a
        · subst hb
          right
          simpa using arenaByte_writeBytes_inside after b [before.arenaByte b] 0 (by simp)
        · left; apply arenaByte_writeBytes_outside; simp; omega
      · exact .inr h
    · exact ih after

/-- With no raced byte in the range, nothing is settled. -/
theorem settleRaces_none (before : State) (lo hi : Nat) (after : State) (h : before.racedIn lo hi = []) :
    settleRaces before lo hi after = after := by
  simp [settleRaces, h]

theorem racedIn_nil (s : State) (lo hi : Nat) (h : s.raced = []) : s.racedIn lo hi = [] := by simp [State.racedIn, h]

/-- Settling changes only raced bytes of its range. -/
theorem settleRaces_outside (before : State) (lo hi : Nat) (after : State) (b : Nat)
    (h : b ∉ before.raced ∨ b < lo ∨ hi ≤ b) :
    (settleRaces before lo hi after).arenaByte b = after.arenaByte b := by
  unfold settleRaces
  split
  · rfl
  · rw [keepHostBytes_outside]
    · rfl
    · simp only [State.racedIn, List.mem_filter, decide_eq_true_eq, not_and]
      intro hb; rcases h with h | h
      · exact absurd hb h
      · omega

theorem settleRaces_either (before : State) (lo hi : Nat) (after : State) (b : Nat) :
    (settleRaces before lo hi after).arenaByte b = after.arenaByte b ∨
      (settleRaces before lo hi after).arenaByte b = before.arenaByte b := by
  unfold settleRaces
  split
  · exact .inl rfl
  · exact keepHostBytes_either before _ _ b

/-! ## The bitmap of INIT (41_frame_allocator R100) -/

theorem layBitmap_same (p : InitLayout) (s : State) : SameButBytes s (layBitmap p s) :=
  ((zeroRange_same s _ _).trans (setFrames_same _ _ _)).trans (setFrames_same _ _ _)

@[simp] theorem layBitmap_draws (p : InitLayout) (s : State) : (layBitmap p s).draws = s.draws := by
  simp [layBitmap]

/-- The bits INIT lays: the bitmap's own frames and the padding are used, every other frame is free. -/
theorem bit_layBitmap (p : InitLayout) (s : State) (hb : s.base = p.start) (hf : p.frames ≤ 64 * p.words) (j : Nat)
    (hj : j < 64 * p.words) : (layBitmap p s).bit j = decide (j < p.bmFrames ∨ p.frames ≤ j) := by
  have zero : (s.zeroRange p.start (p.start + 8 * p.words)).bit j = false := by
    rw [bit_eq_byte, arenaByte_zeroRange, if_pos (by rw [(zeroRange_same s _ _).base, hb]; omega)]
    simp
  simp only [layBitmap, bit_setFrames, zero, Bool.false_or, ← Bool.decide_or]
  congr 1
  apply propext; omega

/-- INIT writes no byte outside the words it lays. -/
theorem arenaByte_layBitmap_outside (p : InitLayout) (s : State) (hb : s.base = p.start) (hf : p.frames ≤ 64 * p.words)
    (hm : p.bmFrames ≤ 64 * p.words) (a : Nat) (ha : a < p.start ∨ p.start + 8 * p.words ≤ a) :
    (layBitmap p s).arenaByte a = s.arenaByte a := by
  have set : ∀ (u : State) (k n : Nat), u.base = p.start → k + n ≤ 64 * p.words →
      (u.setFrames k n).arenaByte a = u.arenaByte a := fun u k n hu hkn => by
    by_cases hn : n = 0
    · subst hn; rfl
    · apply arenaByte_updateWords_outside
      simp only [State.wordAddr, wordSpread, hn, if_false, hu]
      have : k / 64 ≤ (k + n - 1) / 64 := Nat.div_le_div_right (by omega)
      omega
  have hz : (s.zeroRange p.start (p.start + 8 * p.words)).base = p.start := by rw [(zeroRange_same s _ _).base, hb]
  unfold layBitmap
  rw [set _ _ _ (by rw [(setFrames_same _ _ _).base, hz]) (by omega), set _ _ _ hz (by omega), arenaByte_zeroRange,
    if_neg (by omega)]

/-! ## Plans: what a command can end in -/

/-- A command answers a next state only by raising one error or by its own effect. -/
theorem runPlan_next {α : Type} {p : Plan α} {s t : State} {go : α → State} (h : runPlan p s go = .next t) :
    (∃ e, p = .raise e ∧ t = endPerform (raise e s)) ∨ (∃ a, p = .go a ∧ t = endPerform (go a)) := by
  cases p with
  | fault f => simp [runPlan] at h
  | raise e => exact .inl ⟨e, rfl, by simpa [runPlan, conclude] using h.symm⟩
  | go a => exact .inr ⟨a, rfl, by simpa [runPlan, conclude] using h.symm⟩

theorem runPlan_go {α : Type} (a : α) (s : State) (go : α → State) :
    runPlan (.go a) s go = .next (endPerform (go a)) := rfl

theorem runPlan_raise {α : Type} (e : Error) (s : State) (go : α → State) :
    runPlan (.raise e) s go = .next (endPerform (raise e s)) := rfl

/-- When FBA.INIT goes on (41_frame_allocator R100). -/
theorem planInit_go {s : State} {p : InitLayout} :
    planInit s = .go p ↔ s.status.initDone = false ∧ s.opaNat + 4096 ≤ s.opbNat ∧ s.opaNat % 4096 = 0 ∧
      s.params.arenaBase ≤ s.opaNat ∧ s.opbNat ≤ s.arenaEnd ∧ p = initLayout s.opaNat s.opbNat := by
  unfold planInit
  cases h : s.status.initDone
  · by_cases h1 : s.opbNat < s.opaNat + 4096
    · have : ¬ s.opaNat + 4096 ≤ s.opbNat := by omega
      simp [h1, this]
    · by_cases h2 : s.opaNat % 4096 = 0
      · by_cases h3 : s.opaNat < s.params.arenaBase ∨ s.arenaEnd < s.opbNat
        · simp only [h1, h2, h3, if_true, if_false, ne_eq, not_true_eq_false, Bool.false_eq_true,
            reduceCtorEq, true_and, false_iff]
          omega
        · have e1 : s.opaNat + 4096 ≤ s.opbNat := by omega
          have e2 : s.params.arenaBase ≤ s.opaNat := by omega
          have e3 : s.opbNat ≤ s.arenaEnd := by omega
          simp [h1, h2, h3, e1, e2, e3, eq_comm]
      · simp [h1, h2]
  · simp

/-- When `FrameAlloc` goes on, and with which run (41_frame_allocator R108). -/
theorem planAlloc_go {c : SizeClass} {s : State} {r : FrameRun} :
    planAlloc c s = .go r ↔ s.status.initDone = true ∧ s.opaNat ≠ 0 ∧ ¬ (c = .c1g ∧ s.opaNat = 1) ∧
      s.bitmapInArena s.numWords = true ∧ s.search c s.opaNat = some r.k ∧ r.n = s.opaNat * framesPer c := by
  unfold planAlloc
  cases h : s.status.initDone
  · simp
  by_cases h1 : s.opaNat = 0
  · simp [h1]
  by_cases h2 : c = .c1g ∧ s.opaNat = 1
  · simp [h1, h2]
  cases h3 : s.bitmapInArena s.numWords
  · simp [h1, h2]
  · cases h4 : s.search c s.opaNat with
    | none => simp [h1, h2]
    | some k =>
      obtain ⟨k', n'⟩ := r
      simp only [h1, h2, Bool.true_eq_false, Bool.false_eq_true, if_false, Plan.go.injEq, FrameRun.mk.injEq,
        Option.some.injEq, true_and, ne_eq, not_false_eq_true]
      exact ⟨fun ⟨a, b⟩ => ⟨a, b.symm⟩, fun ⟨a, b⟩ => ⟨a, b.symm⟩⟩

/-- When ZALLOC goes on (41_frame_allocator R114). -/
theorem planZalloc_go {c : SizeClass} {s : State} {r : FrameRun} :
    planZalloc c s = .go r ↔ planAlloc c s = .go r ∧ s.inArena (s.runAddr r) (s.runEnd r) = true := by
  unfold planZalloc
  cases h : planAlloc c s with
  | fault f => simp
  | raise e => simp
  | go r' =>
    simp only [Plan.go.injEq]
    cases h1 : s.inArena (s.runAddr r') (s.runEnd r')
    · simp only [if_true, reduceCtorEq, false_iff, not_and]
      rintro rfl; simp [h1]
    · simp only [Bool.true_eq_false, if_false, Plan.go.injEq]
      exact ⟨fun e => ⟨e, e ▸ h1⟩, fun e => e.1⟩

/-- When `FrameFree` goes on, and with which run (41_frame_allocator R117). -/
theorem planFree_go {c : SizeClass} {s : State} {r : FrameRun} :
    planFree c s = .go r ↔ s.status.initDone = true ∧ s.opbNat ≠ 0 ∧ ¬ (c = .c1g ∧ s.opbNat = 1) ∧
      s.opaNat % bytesPer c = 0 ∧ s.base ≤ s.opaNat ∧ s.bmFrames ≤ s.freeIndex ∧
      s.freeIndex + s.opbNat * framesPer c ≤ s.numFrames ∧
      s.bitmapInArena ((s.freeIndex + s.opbNat * framesPer c - 1) / 64 + 1) = true ∧
      s.allUsed s.freeIndex (s.opbNat * framesPer c) = true ∧
      r = { k := s.freeIndex, n := s.opbNat * framesPer c } := by
  unfold planFree
  cases h : s.status.initDone
  · simp
  by_cases h1 : s.opbNat = 0
  · simp [h1]
  by_cases h2 : c = .c1g ∧ s.opbNat = 1
  · simp [h1, h2]
  by_cases h3 : s.opaNat % bytesPer c = 0
  · by_cases h4 : s.opaNat < s.base
    · have : ¬ s.base ≤ s.opaNat := by omega
      simp [h1, h2, h3, h4, this]
    · have h4' : s.base ≤ s.opaNat := by omega
      by_cases h5 : s.freeIndex < s.bmFrames ∨ s.numFrames < s.freeIndex + s.opbNat * framesPer c
      · simp only [h1, h2, h3, h4, h5, Bool.true_eq_false, if_false, ne_eq, not_true_eq_false, if_true, reduceCtorEq,
          false_iff]
        intro hh; omega
      · have h5a : s.bmFrames ≤ s.freeIndex := by omega
        have h5b : s.freeIndex + s.opbNat * framesPer c ≤ s.numFrames := by omega
        cases h6 : s.bitmapInArena ((s.freeIndex + s.opbNat * framesPer c - 1) / 64 + 1)
        · simp [h1, h2, h3, h4, h5]
        · cases h7 : s.allUsed s.freeIndex (s.opbNat * framesPer c)
          · simp [h1, h2, h3, h4, h5]
          · simp only [h1, h2, h3, h4, h4', h5, h5a, h5b, Bool.true_eq_false, if_false, ne_eq, not_true_eq_false,
              Plan.go.injEq, not_false_eq_true, true_and]
            exact ⟨Eq.symm, Eq.symm⟩
  · simp [h1, h2, h3]

/-- When PTE.ENC goes on (42_pte_codec R166). -/
theorem planEnc_go {s : State} {w : Word} :
    planEnc s = .go w ↔ s.opaNat < 2 ^ 8 ∧ s.opbNat < 2 ^ 44 ∧ w = ptePack s.opaNat s.opbNat := by
  unfold planEnc
  by_cases h1 : 2 ^ 8 ≤ s.opaNat
  · have : ¬ s.opaNat < 2 ^ 8 := by omega
    simp only [h1, this, if_true, reduceCtorEq, false_and]
  · by_cases h2 : 2 ^ 44 ≤ s.opbNat
    · have : ¬ s.opbNat < 2 ^ 44 := by omega
      simp only [h1, h2, this, if_true, if_false, reduceCtorEq, false_and, and_false]
    · have e1 : s.opaNat < 2 ^ 8 := by omega
      have e2 : s.opbNat < 2 ^ 44 := by omega
      simp only [h1, h2, e1, e2, if_false, Plan.go.injEq, true_and]
      exact ⟨Eq.symm, Eq.symm⟩

/-! ## The commands, by their plan -/

/-- The effect of a command on a state whose plan it is (41_frame_allocator R110, R114, R118; 42_pte_codec R166). -/
theorem exec_alloc (c : SizeClass) (s : State) : exec c.allocInstr s = runPlan (planAlloc c s) s (applyAlloc s) := by
  cases c <;> rfl

theorem exec_zalloc (c : SizeClass) (s : State) : exec c.zallocInstr s = runPlan (planZalloc c s) s (applyZalloc s) := by
  cases c <;> rfl

theorem exec_dealloc (c : SizeClass) (s : State) : exec c.deallocInstr s = runPlan (planFree c s) s (applyFree s) := by
  cases c <;> rfl

/-- What performing any command can do: it faults, it raises one error and leaves everything else as it was, or it has
the effect of its family. -/
theorem exec_next {i : Instr} {s t : State} (h : exec i s = .next t) :
    (∃ e, t = endPerform (raise e s)) ∨
    (i = .fbaInit ∧ ∃ p, planInit s = .go p ∧ t = endPerform (applyInit s p)) ∨
    (∃ c r, i = c.allocInstr ∧ planAlloc c s = .go r ∧ t = endPerform (applyAlloc s r)) ∨
    (∃ c r, i = c.zallocInstr ∧ planZalloc c s = .go r ∧ t = endPerform (applyZalloc s r)) ∨
    (∃ c r, i = c.deallocInstr ∧ planFree c s = .go r ∧ t = endPerform (applyFree s r)) ∨
    (i = .pteEnc ∧ ∃ w, planEnc s = .go w ∧ t = endPerform (applyEnc s w)) ∨
    (i = .pteDec ∧ t = endPerform (applyDec s s.opa)) := by
  have alloc : ∀ c : SizeClass, exec c.allocInstr s = .next t → (∃ e, t = endPerform (raise e s)) ∨
      (∃ r, planAlloc c s = .go r ∧ t = endPerform (applyAlloc s r)) := fun c hc => by
    rw [exec_alloc] at hc
    rcases runPlan_next hc with ⟨e, -, ht⟩ | hg
    · exact .inl ⟨e, ht⟩
    · exact .inr hg
  have zalloc : ∀ c : SizeClass, exec c.zallocInstr s = .next t → (∃ e, t = endPerform (raise e s)) ∨
      (∃ r, planZalloc c s = .go r ∧ t = endPerform (applyZalloc s r)) := fun c hc => by
    rw [exec_zalloc] at hc
    rcases runPlan_next hc with ⟨e, -, ht⟩ | hg
    · exact .inl ⟨e, ht⟩
    · exact .inr hg
  have dealloc : ∀ c : SizeClass, exec c.deallocInstr s = .next t → (∃ e, t = endPerform (raise e s)) ∨
      (∃ r, planFree c s = .go r ∧ t = endPerform (applyFree s r)) := fun c hc => by
    rw [exec_dealloc] at hc
    rcases runPlan_next hc with ⟨e, -, ht⟩ | hg
    · exact .inl ⟨e, ht⟩
    · exact .inr hg
  cases i with
  | fbaInit =>
    rcases runPlan_next h with ⟨e, -, ht⟩ | hg
    · exact .inl ⟨e, ht⟩
    · exact .inr (.inl ⟨rfl, hg⟩)
  | fbaAlloc4K => rcases alloc .c4k h with he | ⟨r, hr⟩; exacts [.inl he, .inr (.inr (.inl ⟨.c4k, r, rfl, hr⟩))]
  | fbaAlloc2M => rcases alloc .c2m h with he | ⟨r, hr⟩; exacts [.inl he, .inr (.inr (.inl ⟨.c2m, r, rfl, hr⟩))]
  | fbaAlloc1G => rcases alloc .c1g h with he | ⟨r, hr⟩; exacts [.inl he, .inr (.inr (.inl ⟨.c1g, r, rfl, hr⟩))]
  | fbaZalloc4K =>
    rcases zalloc .c4k h with he | ⟨r, hr⟩; exacts [.inl he, .inr (.inr (.inr (.inl ⟨.c4k, r, rfl, hr⟩)))]
  | fbaZalloc2M =>
    rcases zalloc .c2m h with he | ⟨r, hr⟩; exacts [.inl he, .inr (.inr (.inr (.inl ⟨.c2m, r, rfl, hr⟩)))]
  | fbaZalloc1G =>
    rcases zalloc .c1g h with he | ⟨r, hr⟩; exacts [.inl he, .inr (.inr (.inr (.inl ⟨.c1g, r, rfl, hr⟩)))]
  | fbaDealloc4K =>
    rcases dealloc .c4k h with he | ⟨r, hr⟩; exacts [.inl he, .inr (.inr (.inr (.inr (.inl ⟨.c4k, r, rfl, hr⟩))))]
  | fbaDealloc2M =>
    rcases dealloc .c2m h with he | ⟨r, hr⟩; exacts [.inl he, .inr (.inr (.inr (.inr (.inl ⟨.c2m, r, rfl, hr⟩))))]
  | fbaDealloc1G =>
    rcases dealloc .c1g h with he | ⟨r, hr⟩; exacts [.inl he, .inr (.inr (.inr (.inr (.inl ⟨.c1g, r, rfl, hr⟩))))]
  | pteEnc =>
    rcases runPlan_next h with ⟨e, -, ht⟩ | hg
    · exact .inl ⟨e, ht⟩
    · exact .inr (.inr (.inr (.inr (.inr (.inl ⟨rfl, hg⟩)))))
  | pteDec =>
    refine .inr (.inr (.inr (.inr (.inr (.inr ⟨rfl, ?_⟩)))))
    simpa [exec, execPteDec, conclude] using h.symm

/-- What the engine's perform step can do (20_memory R52). -/
theorem perform_next {s t : State} (h : perform s = .next t) :
    (∃ e, decode s.cmd = .error e ∧ t = endPerform (raise .illegalCommand s)) ∨
    (∃ i, decode s.cmd = .ok i ∧ exec i s = .next t) := by
  unfold perform at h
  split at h
  · rename_i e he; exact .inl ⟨e, he, by simpa [conclude] using h.symm⟩
  · rename_i i hi; exact .inr ⟨i, hi, h⟩

end Sys2Proof.Machine
end

