-- ==== Sys2Proof/Laws/Canonical.lean ====
section
/-! SUPPORT. Every operation on the arena keeps its canonical form, and the memory after reset has it. -/

namespace Sys2Proof.Machine

open Sys2Proof.Safety (MemoryOk)

/-- The canonical form depends on the bytes, the draws and the parameters alone. -/
theorem memoryOk_congr {s t : State} (hp : t.params = s.params) (hm : t.mem = s.mem)
    (hu : t.unspecified = s.unspecified) (hd : s.draws ≤ t.draws) (h : MemoryOk s) : MemoryOk t := by
  obtain ⟨h1, h2, h3, h4, h5⟩ := h
  have he : t.arenaEnd = s.arenaEnd := by simp [State.arenaEnd, hp]
  refine ⟨hm ▸ h1, hu ▸ h2, ?_, ?_, ?_⟩
  · rw [hm, hp, he]; exact h3
  · rw [hu, hp, he]; exact fun u hu' => ⟨(h4 u hu').1, (h4 u hu').2.1, by have := (h4 u hu').2.2; omega⟩
  · rw [hm, hu]; exact h5

theorem memoryOk_writeBytes {s : State} (h : MemoryOk s) (a : Nat) (bs : List Byte)
    (ha : s.inArena a (a + bs.length) = true) : MemoryOk (s.writeBytes a bs) := by
  obtain ⟨h1, h2, h3, h4, h5⟩ := h
  simp only [State.inArena, decide_eq_true_eq] at ha
  have he : (s.writeBytes a bs).arenaEnd = s.params.arenaBase + s.params.arenaLen := rfl
  have he' : s.arenaEnd = s.params.arenaBase + s.params.arenaLen := rfl
  have part := Span.cut_part s.unspecified a (a + bs.length) h2.2
  refine ⟨Memory.wf_put _ _ _ h1, Span.wf_cut _ _ _ h2, ?_, ?_, ?_⟩
  · intro c hc
    rcases Memory.put_mem _ _ _ _ hc with ⟨hin, -⟩ | hin
    · have := h3 c hin; simp only [writeBytes_params, he]; omega
    · simp only [writeBytes_params, he]; omega
  · intro u hu
    obtain ⟨v, hv, p1, p2, p3, p4⟩ := part u hu
    have := h4 v hv
    simp only [writeBytes_params, he, writeBytes_draws, p3]
    omega
  · intro u hu c hc
    obtain ⟨v, hv, p1, p2, p3, p4⟩ := part u hu
    rcases Memory.put_mem _ _ _ _ hc with ⟨hin, -⟩ | hin
    · have := h5 v hv c hin
      simp only [Span.has, decide_eq_false_iff_not] at this ⊢
      omega
    · by_cases hl : bs.length = 0
      · omega
      · have := Span.cut_disjoint s.unspecified a (a + bs.length) (by omega) u hu
        simp only [Span.has, decide_eq_false_iff_not]
        omega

theorem memoryOk_zeroRange {s : State} (h : MemoryOk s) (lo hi : Nat) : MemoryOk (s.zeroRange lo hi) := by
  obtain ⟨h1, h2, h3, h4, h5⟩ := h
  have part := Span.cut_part s.unspecified lo hi h2.2
  refine ⟨Memory.wf_clear _ _ _ h1, Span.wf_cut _ _ _ h2, ?_, ?_, ?_⟩
  · exact fun c hc => h3 c (Memory.clear_mem _ _ _ _ hc).1
  · intro u hu
    obtain ⟨v, hv, p1, p2, p3, p4⟩ := part u hu
    have := h4 v hv
    have he : (s.zeroRange lo hi).arenaEnd = s.arenaEnd := rfl
    simp only [zeroRange_params, he, zeroRange_draws, p3]
    omega
  · intro u hu c hc
    obtain ⟨v, hv, p1, p2, p3, p4⟩ := part u hu
    have := h5 v hv c (Memory.clear_mem _ _ _ _ hc).1
    simp only [Span.has, decide_eq_false_iff_not] at this ⊢
    omega

theorem memoryOk_drawRange {s : State} (h : MemoryOk s) (lo hi : Nat) : MemoryOk (s.drawRange lo hi) := by
  obtain ⟨h1, h2, h3, h4, h5⟩ := h
  have he : (s.drawRange lo hi).arenaEnd = s.arenaEnd := rfl
  have he' : s.arenaEnd = s.params.arenaBase + s.params.arenaLen := rfl
  have fresh : ∀ u ∈ s.unspecified, u.tag ≠ s.draws := fun u hu => by have := (h4 u hu).2.2; omega
  refine ⟨Memory.wf_clear _ _ _ h1, Span.wf_add _ _ _ _ h2 fresh, ?_, ?_, ?_⟩
  · exact fun c hc => h3 c (Memory.clear_mem _ _ _ _ hc).1
  · intro u hu
    simp only [drawRange_params, he, drawRange_draws]
    rcases Span.add_mem _ _ _ _ _ hu with hu | ⟨hlt, rfl⟩
    · obtain ⟨v, hv, p1, p2, p3, p4⟩ := Span.cut_part _ _ _ h2.2 u hu
      have := h4 v hv
      rw [p3]; omega
    · simp only; omega
  · intro u hu c hc
    obtain ⟨hc1, hc2⟩ := Memory.clear_mem _ _ _ _ hc
    rcases Span.add_mem _ _ _ _ _ hu with hu | ⟨hlt, rfl⟩
    · obtain ⟨v, hv, p1, p2, p3, p4⟩ := Span.cut_part _ _ _ h2.2 u hu
      have := h5 v hv c hc1
      simp only [Span.has, decide_eq_false_iff_not] at this ⊢
      omega
    · simp only [Span.has, decide_eq_false_iff_not]; omega

/-- Rewriting whole bitmap words inside the arena. -/
theorem memoryOk_updateWords {s : State} (h : MemoryOk s) (k n : Nat) (f : Nat → Word → Word)
    (ha : 0 < n → s.inArena (s.base + 8 * (k / 64)) (s.base + 8 * ((k + n - 1) / 64 + 1)) = true) :
    MemoryOk (s.updateWords k n f) := by
  unfold State.updateWords
  split
  · exact h
  · rename_i hn
    apply memoryOk_writeBytes h
    have hl : ((wordsOf k n).flatMap (fun w => leBytes 8 (f w (s.bm w)).toNat)).length = 8 * wordSpread k n := by
      rw [flatMap_leBytes_length]; simp [wordsOf]
    have := ha (by omega)
    rw [hl]
    simp only [State.inArena, decide_eq_true_eq, State.wordAddr, wordSpread, hn, if_false] at this ⊢
    have hle : k / 64 ≤ (k + n - 1) / 64 := Nat.div_le_div_right (by omega)
    omega

/-- Laying INIT's bitmap inside the arena. -/
theorem memoryOk_layBitmap {s : State} (h : MemoryOk s) (p : InitLayout) (hb : s.base = p.start)
    (hf : p.frames ≤ 64 * p.words) (hm : p.bmFrames ≤ 64 * p.words)
    (ha : s.inArena p.start (p.start + 8 * p.words) = true) : MemoryOk (layBitmap p s) := by
  have set : ∀ (u : State) (k n : Nat), MemoryOk u → u.params = s.params → u.base = p.start → k + n ≤ 64 * p.words →
      MemoryOk (u.setFrames k n) := fun u k n hu hp hub hkn => by
    apply memoryOk_updateWords hu
    intro hn
    simp only [State.inArena, decide_eq_true_eq, hp, hub] at ha ⊢
    omega
  have same := zeroRange_same s p.start (p.start + 8 * p.words)
  have hz : (s.zeroRange p.start (p.start + 8 * p.words)).base = p.start := by rw [same.base, hb]
  have same1 := setFrames_same (s.zeroRange p.start (p.start + 8 * p.words)) 0 p.bmFrames
  unfold layBitmap
  refine set _ _ _ (set _ _ _ (memoryOk_zeroRange h _ _) same.params hz (by omega)) ?_ ?_ (by omega)
  · rw [same1.params, same.params]
  · rw [same1.base, hz]

theorem memoryOk_keepHostBytes {before after : State} (h : MemoryOk after) (addrs : List Nat)
    (ha : ∀ a ∈ addrs, after.inArena a (a + 1) = true) : MemoryOk (keepHostBytes before addrs after) := by
  induction addrs generalizing after with
  | nil => exact h
  | cons a rest ih =>
    simp only [keepHostBytes]
    split
    · exact ih (memoryOk_writeBytes h a _ (ha a (by simp))) (fun b hb => ha b (by simp [hb]))
    · exact ih h (fun b hb => ha b (by simp [hb]))

theorem memoryOk_settleRaces {before after : State} (h : MemoryOk after) (hd : after.draws = before.draws) (lo hi : Nat)
    (ha : after.inArena lo hi = true) : MemoryOk (settleRaces before lo hi after) := by
  unfold settleRaces
  split
  · exact h
  · apply memoryOk_keepHostBytes
    · exact memoryOk_congr (s := after) rfl rfl rfl (by simp only [hd]; omega) h
    · intro a hm
      simp only [State.racedIn, List.mem_filter, decide_eq_true_eq, State.inArena] at hm ha ⊢
      omega

/-- The memory after reset is canonical, and so are its spans of unspecified bytes (10_state R40). -/
theorem reset_memory_wf : Memory.wf State.reset.mem ∧ Span.wf State.reset.unspecified := by decide

end Sys2Proof.Machine
end

