-- ==== Sys2Proof/Laws/Host.lean ====
section
/-! SUPPORT. The host side and reset: one lemma per field per update, and what each move can do, said once. -/

namespace Sys2Proof.Machine

/-! ## holdPort -/

@[simp] theorem holdPort_params (s : State) (g : Nat) (b : Bool) :
    (s.holdPort g b).params = s.params := rfl
@[simp] theorem holdPort_cmd (s : State) (g : Nat) (b : Bool) :
    (s.holdPort g b).cmd = s.cmd := rfl
@[simp] theorem holdPort_opa (s : State) (g : Nat) (b : Bool) :
    (s.holdPort g b).opa = s.opa := rfl
@[simp] theorem holdPort_opb (s : State) (g : Nat) (b : Bool) :
    (s.holdPort g b).opb = s.opb := rfl
@[simp] theorem holdPort_status (s : State) (g : Nat) (b : Bool) :
    (s.holdPort g b).status = s.status := rfl
@[simp] theorem holdPort_res0 (s : State) (g : Nat) (b : Bool) :
    (s.holdPort g b).res0 = s.res0 := rfl
@[simp] theorem holdPort_res1 (s : State) (g : Nat) (b : Bool) :
    (s.holdPort g b).res1 = s.res1 := rfl
@[simp] theorem holdPort_res2 (s : State) (g : Nat) (b : Bool) :
    (s.holdPort g b).res2 = s.res2 := rfl
@[simp] theorem holdPort_res3 (s : State) (g : Nat) (b : Bool) :
    (s.holdPort g b).res3 = s.res3 := rfl
@[simp] theorem holdPort_cfgBase (s : State) (g : Nat) (b : Bool) :
    (s.holdPort g b).cfgBase = s.cfgBase := rfl
@[simp] theorem holdPort_cfgNFrames (s : State) (g : Nat) (b : Bool) :
    (s.holdPort g b).cfgNFrames = s.cfgNFrames := rfl
@[simp] theorem holdPort_cfgNWords (s : State) (g : Nat) (b : Bool) :
    (s.holdPort g b).cfgNWords = s.cfgNWords := rfl
@[simp] theorem holdPort_cfgBmFrames (s : State) (g : Nat) (b : Bool) :
    (s.holdPort g b).cfgBmFrames = s.cfgBmFrames := rfl
@[simp] theorem holdPort_mem (s : State) (g : Nat) (b : Bool) :
    (s.holdPort g b).mem = s.mem := rfl
@[simp] theorem holdPort_unspecified (s : State) (g : Nat) (b : Bool) :
    (s.holdPort g b).unspecified = s.unspecified := rfl
@[simp] theorem holdPort_raced (s : State) (g : Nat) (b : Bool) :
    (s.holdPort g b).raced = s.raced := rfl
@[simp] theorem holdPort_draws (s : State) (g : Nat) (b : Bool) :
    (s.holdPort g b).draws = s.draws := rfl
@[simp] theorem holdPort_agenda (s : State) (g : Nat) (b : Bool) :
    (s.holdPort g b).agenda = s.agenda := rfl
@[simp] theorem holdPort_lastRead (s : State) (g : Nat) (b : Bool) :
    (s.holdPort g b).lastRead = s.lastRead := rfl
@[simp] theorem holdPort_portUser (s : State) (g : Nat) (b : Bool) :
    (s.holdPort g b).portUser = some { agent := g, accepted := b } := rfl
@[simp] theorem holdPort_arenaByte (s : State) (g : Nat) (b : Bool) (a : Nat) :
    (s.holdPort g b).arenaByte a = s.arenaByte a := rfl

/-! ## takeOpa -/

@[simp] theorem takeOpa_params (s : State) (v : Word) :
    (s.takeOpa v).params = s.params := rfl
@[simp] theorem takeOpa_cmd (s : State) (v : Word) :
    (s.takeOpa v).cmd = s.cmd := rfl
@[simp] theorem takeOpa_opa (s : State) (v : Word) :
    (s.takeOpa v).opa = v := rfl
@[simp] theorem takeOpa_opb (s : State) (v : Word) :
    (s.takeOpa v).opb = s.opb := rfl
@[simp] theorem takeOpa_status (s : State) (v : Word) :
    (s.takeOpa v).status = s.status := rfl
@[simp] theorem takeOpa_res0 (s : State) (v : Word) :
    (s.takeOpa v).res0 = s.res0 := rfl
@[simp] theorem takeOpa_res1 (s : State) (v : Word) :
    (s.takeOpa v).res1 = s.res1 := rfl
@[simp] theorem takeOpa_res2 (s : State) (v : Word) :
    (s.takeOpa v).res2 = s.res2 := rfl
@[simp] theorem takeOpa_res3 (s : State) (v : Word) :
    (s.takeOpa v).res3 = s.res3 := rfl
@[simp] theorem takeOpa_cfgBase (s : State) (v : Word) :
    (s.takeOpa v).cfgBase = s.cfgBase := rfl
@[simp] theorem takeOpa_cfgNFrames (s : State) (v : Word) :
    (s.takeOpa v).cfgNFrames = s.cfgNFrames := rfl
@[simp] theorem takeOpa_cfgNWords (s : State) (v : Word) :
    (s.takeOpa v).cfgNWords = s.cfgNWords := rfl
@[simp] theorem takeOpa_cfgBmFrames (s : State) (v : Word) :
    (s.takeOpa v).cfgBmFrames = s.cfgBmFrames := rfl
@[simp] theorem takeOpa_mem (s : State) (v : Word) :
    (s.takeOpa v).mem = s.mem := rfl
@[simp] theorem takeOpa_unspecified (s : State) (v : Word) :
    (s.takeOpa v).unspecified = s.unspecified := rfl
@[simp] theorem takeOpa_raced (s : State) (v : Word) :
    (s.takeOpa v).raced = s.raced := rfl
@[simp] theorem takeOpa_draws (s : State) (v : Word) :
    (s.takeOpa v).draws = s.draws := rfl
@[simp] theorem takeOpa_agenda (s : State) (v : Word) :
    (s.takeOpa v).agenda = s.agenda := rfl
@[simp] theorem takeOpa_lastRead (s : State) (v : Word) :
    (s.takeOpa v).lastRead = s.lastRead := rfl
@[simp] theorem takeOpa_portUser (s : State) (v : Word) :
    (s.takeOpa v).portUser = s.portUser := rfl
@[simp] theorem takeOpa_arenaByte (s : State) (v : Word) (a : Nat) :
    (s.takeOpa v).arenaByte a = s.arenaByte a := rfl

/-! ## takeOpb -/

@[simp] theorem takeOpb_params (s : State) (v : Word) :
    (s.takeOpb v).params = s.params := rfl
@[simp] theorem takeOpb_cmd (s : State) (v : Word) :
    (s.takeOpb v).cmd = s.cmd := rfl
@[simp] theorem takeOpb_opa (s : State) (v : Word) :
    (s.takeOpb v).opa = s.opa := rfl
@[simp] theorem takeOpb_opb (s : State) (v : Word) :
    (s.takeOpb v).opb = v := rfl
@[simp] theorem takeOpb_status (s : State) (v : Word) :
    (s.takeOpb v).status = s.status := rfl
@[simp] theorem takeOpb_res0 (s : State) (v : Word) :
    (s.takeOpb v).res0 = s.res0 := rfl
@[simp] theorem takeOpb_res1 (s : State) (v : Word) :
    (s.takeOpb v).res1 = s.res1 := rfl
@[simp] theorem takeOpb_res2 (s : State) (v : Word) :
    (s.takeOpb v).res2 = s.res2 := rfl
@[simp] theorem takeOpb_res3 (s : State) (v : Word) :
    (s.takeOpb v).res3 = s.res3 := rfl
@[simp] theorem takeOpb_cfgBase (s : State) (v : Word) :
    (s.takeOpb v).cfgBase = s.cfgBase := rfl
@[simp] theorem takeOpb_cfgNFrames (s : State) (v : Word) :
    (s.takeOpb v).cfgNFrames = s.cfgNFrames := rfl
@[simp] theorem takeOpb_cfgNWords (s : State) (v : Word) :
    (s.takeOpb v).cfgNWords = s.cfgNWords := rfl
@[simp] theorem takeOpb_cfgBmFrames (s : State) (v : Word) :
    (s.takeOpb v).cfgBmFrames = s.cfgBmFrames := rfl
@[simp] theorem takeOpb_mem (s : State) (v : Word) :
    (s.takeOpb v).mem = s.mem := rfl
@[simp] theorem takeOpb_unspecified (s : State) (v : Word) :
    (s.takeOpb v).unspecified = s.unspecified := rfl
@[simp] theorem takeOpb_raced (s : State) (v : Word) :
    (s.takeOpb v).raced = s.raced := rfl
@[simp] theorem takeOpb_draws (s : State) (v : Word) :
    (s.takeOpb v).draws = s.draws := rfl
@[simp] theorem takeOpb_agenda (s : State) (v : Word) :
    (s.takeOpb v).agenda = s.agenda := rfl
@[simp] theorem takeOpb_lastRead (s : State) (v : Word) :
    (s.takeOpb v).lastRead = s.lastRead := rfl
@[simp] theorem takeOpb_portUser (s : State) (v : Word) :
    (s.takeOpb v).portUser = s.portUser := rfl
@[simp] theorem takeOpb_arenaByte (s : State) (v : Word) (a : Nat) :
    (s.takeOpb v).arenaByte a = s.arenaByte a := rfl

/-! ## recordRaces -/

@[simp] theorem recordRaces_params (s : State) (lo len : Nat) :
    (s.recordRaces lo len).params = s.params := rfl
@[simp] theorem recordRaces_cmd (s : State) (lo len : Nat) :
    (s.recordRaces lo len).cmd = s.cmd := rfl
@[simp] theorem recordRaces_opa (s : State) (lo len : Nat) :
    (s.recordRaces lo len).opa = s.opa := rfl
@[simp] theorem recordRaces_opb (s : State) (lo len : Nat) :
    (s.recordRaces lo len).opb = s.opb := rfl
@[simp] theorem recordRaces_status (s : State) (lo len : Nat) :
    (s.recordRaces lo len).status = s.status := rfl
@[simp] theorem recordRaces_res0 (s : State) (lo len : Nat) :
    (s.recordRaces lo len).res0 = s.res0 := rfl
@[simp] theorem recordRaces_res1 (s : State) (lo len : Nat) :
    (s.recordRaces lo len).res1 = s.res1 := rfl
@[simp] theorem recordRaces_res2 (s : State) (lo len : Nat) :
    (s.recordRaces lo len).res2 = s.res2 := rfl
@[simp] theorem recordRaces_res3 (s : State) (lo len : Nat) :
    (s.recordRaces lo len).res3 = s.res3 := rfl
@[simp] theorem recordRaces_cfgBase (s : State) (lo len : Nat) :
    (s.recordRaces lo len).cfgBase = s.cfgBase := rfl
@[simp] theorem recordRaces_cfgNFrames (s : State) (lo len : Nat) :
    (s.recordRaces lo len).cfgNFrames = s.cfgNFrames := rfl
@[simp] theorem recordRaces_cfgNWords (s : State) (lo len : Nat) :
    (s.recordRaces lo len).cfgNWords = s.cfgNWords := rfl
@[simp] theorem recordRaces_cfgBmFrames (s : State) (lo len : Nat) :
    (s.recordRaces lo len).cfgBmFrames = s.cfgBmFrames := rfl
@[simp] theorem recordRaces_mem (s : State) (lo len : Nat) :
    (s.recordRaces lo len).mem = s.mem := rfl
@[simp] theorem recordRaces_unspecified (s : State) (lo len : Nat) :
    (s.recordRaces lo len).unspecified = s.unspecified := rfl
@[simp] theorem recordRaces_raced (s : State) (lo len : Nat) :
    (s.recordRaces lo len).raced = s.racedAfter lo len := rfl
@[simp] theorem recordRaces_draws (s : State) (lo len : Nat) :
    (s.recordRaces lo len).draws = s.draws := rfl
@[simp] theorem recordRaces_agenda (s : State) (lo len : Nat) :
    (s.recordRaces lo len).agenda = s.agenda := rfl
@[simp] theorem recordRaces_lastRead (s : State) (lo len : Nat) :
    (s.recordRaces lo len).lastRead = s.lastRead := rfl
@[simp] theorem recordRaces_portUser (s : State) (lo len : Nat) :
    (s.recordRaces lo len).portUser = s.portUser := rfl
@[simp] theorem recordRaces_arenaByte (s : State) (lo len : Nat) (a : Nat) :
    (s.recordRaces lo len).arenaByte a = s.arenaByte a := rfl

/-! ## noteOverrun -/

@[simp] theorem noteOverrun_params (s : State) :
    (s.noteOverrun).params = s.params := rfl
@[simp] theorem noteOverrun_cmd (s : State) :
    (s.noteOverrun).cmd = s.cmd := rfl
@[simp] theorem noteOverrun_opa (s : State) :
    (s.noteOverrun).opa = s.opa := rfl
@[simp] theorem noteOverrun_opb (s : State) :
    (s.noteOverrun).opb = s.opb := rfl
@[simp] theorem noteOverrun_status (s : State) :
    (s.noteOverrun).status = s.status.overran := rfl
@[simp] theorem noteOverrun_res0 (s : State) :
    (s.noteOverrun).res0 = s.res0 := rfl
@[simp] theorem noteOverrun_res1 (s : State) :
    (s.noteOverrun).res1 = s.res1 := rfl
@[simp] theorem noteOverrun_res2 (s : State) :
    (s.noteOverrun).res2 = s.res2 := rfl
@[simp] theorem noteOverrun_res3 (s : State) :
    (s.noteOverrun).res3 = s.res3 := rfl
@[simp] theorem noteOverrun_cfgBase (s : State) :
    (s.noteOverrun).cfgBase = s.cfgBase := rfl
@[simp] theorem noteOverrun_cfgNFrames (s : State) :
    (s.noteOverrun).cfgNFrames = s.cfgNFrames := rfl
@[simp] theorem noteOverrun_cfgNWords (s : State) :
    (s.noteOverrun).cfgNWords = s.cfgNWords := rfl
@[simp] theorem noteOverrun_cfgBmFrames (s : State) :
    (s.noteOverrun).cfgBmFrames = s.cfgBmFrames := rfl
@[simp] theorem noteOverrun_mem (s : State) :
    (s.noteOverrun).mem = s.mem := rfl
@[simp] theorem noteOverrun_unspecified (s : State) :
    (s.noteOverrun).unspecified = s.unspecified := rfl
@[simp] theorem noteOverrun_raced (s : State) :
    (s.noteOverrun).raced = s.raced := rfl
@[simp] theorem noteOverrun_draws (s : State) :
    (s.noteOverrun).draws = s.draws := rfl
@[simp] theorem noteOverrun_agenda (s : State) :
    (s.noteOverrun).agenda = s.agenda := rfl
@[simp] theorem noteOverrun_lastRead (s : State) :
    (s.noteOverrun).lastRead = s.lastRead := rfl
@[simp] theorem noteOverrun_portUser (s : State) :
    (s.noteOverrun).portUser = s.portUser := rfl
@[simp] theorem noteOverrun_arenaByte (s : State) (a : Nat) :
    (s.noteOverrun).arenaByte a = s.arenaByte a := rfl

/-! ## returnRegister -/

@[simp] theorem returnRegister_params (s : State) (v : Word) (p : Option PortUse) :
    (s.returnRegister v p).params = s.params := rfl
@[simp] theorem returnRegister_cmd (s : State) (v : Word) (p : Option PortUse) :
    (s.returnRegister v p).cmd = s.cmd := rfl
@[simp] theorem returnRegister_opa (s : State) (v : Word) (p : Option PortUse) :
    (s.returnRegister v p).opa = s.opa := rfl
@[simp] theorem returnRegister_opb (s : State) (v : Word) (p : Option PortUse) :
    (s.returnRegister v p).opb = s.opb := rfl
@[simp] theorem returnRegister_status (s : State) (v : Word) (p : Option PortUse) :
    (s.returnRegister v p).status = s.status := rfl
@[simp] theorem returnRegister_res0 (s : State) (v : Word) (p : Option PortUse) :
    (s.returnRegister v p).res0 = s.res0 := rfl
@[simp] theorem returnRegister_res1 (s : State) (v : Word) (p : Option PortUse) :
    (s.returnRegister v p).res1 = s.res1 := rfl
@[simp] theorem returnRegister_res2 (s : State) (v : Word) (p : Option PortUse) :
    (s.returnRegister v p).res2 = s.res2 := rfl
@[simp] theorem returnRegister_res3 (s : State) (v : Word) (p : Option PortUse) :
    (s.returnRegister v p).res3 = s.res3 := rfl
@[simp] theorem returnRegister_cfgBase (s : State) (v : Word) (p : Option PortUse) :
    (s.returnRegister v p).cfgBase = s.cfgBase := rfl
@[simp] theorem returnRegister_cfgNFrames (s : State) (v : Word) (p : Option PortUse) :
    (s.returnRegister v p).cfgNFrames = s.cfgNFrames := rfl
@[simp] theorem returnRegister_cfgNWords (s : State) (v : Word) (p : Option PortUse) :
    (s.returnRegister v p).cfgNWords = s.cfgNWords := rfl
@[simp] theorem returnRegister_cfgBmFrames (s : State) (v : Word) (p : Option PortUse) :
    (s.returnRegister v p).cfgBmFrames = s.cfgBmFrames := rfl
@[simp] theorem returnRegister_mem (s : State) (v : Word) (p : Option PortUse) :
    (s.returnRegister v p).mem = s.mem := rfl
@[simp] theorem returnRegister_unspecified (s : State) (v : Word) (p : Option PortUse) :
    (s.returnRegister v p).unspecified = s.unspecified := rfl
@[simp] theorem returnRegister_raced (s : State) (v : Word) (p : Option PortUse) :
    (s.returnRegister v p).raced = s.raced := rfl
@[simp] theorem returnRegister_draws (s : State) (v : Word) (p : Option PortUse) :
    (s.returnRegister v p).draws = s.draws := rfl
@[simp] theorem returnRegister_agenda (s : State) (v : Word) (p : Option PortUse) :
    (s.returnRegister v p).agenda = s.agenda := rfl
@[simp] theorem returnRegister_lastRead (s : State) (v : Word) (p : Option PortUse) :
    (s.returnRegister v p).lastRead = .register v := rfl
@[simp] theorem returnRegister_portUser (s : State) (v : Word) (p : Option PortUse) :
    (s.returnRegister v p).portUser = p := rfl
@[simp] theorem returnRegister_arenaByte (s : State) (v : Word) (p : Option PortUse) (a : Nat) :
    (s.returnRegister v p).arenaByte a = s.arenaByte a := rfl

/-! ## returnBytes -/

@[simp] theorem returnBytes_params (s : State) (bs : List Byte) (k : Nat) :
    (s.returnBytes bs k).params = s.params := rfl
@[simp] theorem returnBytes_cmd (s : State) (bs : List Byte) (k : Nat) :
    (s.returnBytes bs k).cmd = s.cmd := rfl
@[simp] theorem returnBytes_opa (s : State) (bs : List Byte) (k : Nat) :
    (s.returnBytes bs k).opa = s.opa := rfl
@[simp] theorem returnBytes_opb (s : State) (bs : List Byte) (k : Nat) :
    (s.returnBytes bs k).opb = s.opb := rfl
@[simp] theorem returnBytes_status (s : State) (bs : List Byte) (k : Nat) :
    (s.returnBytes bs k).status = s.status := rfl
@[simp] theorem returnBytes_res0 (s : State) (bs : List Byte) (k : Nat) :
    (s.returnBytes bs k).res0 = s.res0 := rfl
@[simp] theorem returnBytes_res1 (s : State) (bs : List Byte) (k : Nat) :
    (s.returnBytes bs k).res1 = s.res1 := rfl
@[simp] theorem returnBytes_res2 (s : State) (bs : List Byte) (k : Nat) :
    (s.returnBytes bs k).res2 = s.res2 := rfl
@[simp] theorem returnBytes_res3 (s : State) (bs : List Byte) (k : Nat) :
    (s.returnBytes bs k).res3 = s.res3 := rfl
@[simp] theorem returnBytes_cfgBase (s : State) (bs : List Byte) (k : Nat) :
    (s.returnBytes bs k).cfgBase = s.cfgBase := rfl
@[simp] theorem returnBytes_cfgNFrames (s : State) (bs : List Byte) (k : Nat) :
    (s.returnBytes bs k).cfgNFrames = s.cfgNFrames := rfl
@[simp] theorem returnBytes_cfgNWords (s : State) (bs : List Byte) (k : Nat) :
    (s.returnBytes bs k).cfgNWords = s.cfgNWords := rfl
@[simp] theorem returnBytes_cfgBmFrames (s : State) (bs : List Byte) (k : Nat) :
    (s.returnBytes bs k).cfgBmFrames = s.cfgBmFrames := rfl
@[simp] theorem returnBytes_mem (s : State) (bs : List Byte) (k : Nat) :
    (s.returnBytes bs k).mem = s.mem := rfl
@[simp] theorem returnBytes_unspecified (s : State) (bs : List Byte) (k : Nat) :
    (s.returnBytes bs k).unspecified = s.unspecified := rfl
@[simp] theorem returnBytes_raced (s : State) (bs : List Byte) (k : Nat) :
    (s.returnBytes bs k).raced = s.raced := rfl
@[simp] theorem returnBytes_draws (s : State) (bs : List Byte) (k : Nat) :
    (s.returnBytes bs k).draws = k := rfl
@[simp] theorem returnBytes_agenda (s : State) (bs : List Byte) (k : Nat) :
    (s.returnBytes bs k).agenda = s.agenda := rfl
@[simp] theorem returnBytes_lastRead (s : State) (bs : List Byte) (k : Nat) :
    (s.returnBytes bs k).lastRead = .arena bs := rfl
@[simp] theorem returnBytes_portUser (s : State) (bs : List Byte) (k : Nat) :
    (s.returnBytes bs k).portUser = s.portUser := rfl
@[simp] theorem returnBytes_arenaByte (s : State) (bs : List Byte) (k : Nat) (a : Nat) :
    (s.returnBytes bs k).arenaByte a = s.arenaByte a := rfl

/-! ## setInitDone -/

@[simp] theorem setInitDone_params (s : State) :
    (setInitDone s).params = s.params := rfl
@[simp] theorem setInitDone_cmd (s : State) :
    (setInitDone s).cmd = s.cmd := rfl
@[simp] theorem setInitDone_opa (s : State) :
    (setInitDone s).opa = s.opa := rfl
@[simp] theorem setInitDone_opb (s : State) :
    (setInitDone s).opb = s.opb := rfl
@[simp] theorem setInitDone_status (s : State) :
    (setInitDone s).status = { s.status with initDone := true } := rfl
@[simp] theorem setInitDone_res0 (s : State) :
    (setInitDone s).res0 = s.res0 := rfl
@[simp] theorem setInitDone_res1 (s : State) :
    (setInitDone s).res1 = s.res1 := rfl
@[simp] theorem setInitDone_res2 (s : State) :
    (setInitDone s).res2 = s.res2 := rfl
@[simp] theorem setInitDone_res3 (s : State) :
    (setInitDone s).res3 = s.res3 := rfl
@[simp] theorem setInitDone_cfgBase (s : State) :
    (setInitDone s).cfgBase = s.cfgBase := rfl
@[simp] theorem setInitDone_cfgNFrames (s : State) :
    (setInitDone s).cfgNFrames = s.cfgNFrames := rfl
@[simp] theorem setInitDone_cfgNWords (s : State) :
    (setInitDone s).cfgNWords = s.cfgNWords := rfl
@[simp] theorem setInitDone_cfgBmFrames (s : State) :
    (setInitDone s).cfgBmFrames = s.cfgBmFrames := rfl
@[simp] theorem setInitDone_mem (s : State) :
    (setInitDone s).mem = s.mem := rfl
@[simp] theorem setInitDone_unspecified (s : State) :
    (setInitDone s).unspecified = s.unspecified := rfl
@[simp] theorem setInitDone_raced (s : State) :
    (setInitDone s).raced = s.raced := rfl
@[simp] theorem setInitDone_draws (s : State) :
    (setInitDone s).draws = s.draws := rfl
@[simp] theorem setInitDone_agenda (s : State) :
    (setInitDone s).agenda = s.agenda := rfl
@[simp] theorem setInitDone_lastRead (s : State) :
    (setInitDone s).lastRead = s.lastRead := rfl
@[simp] theorem setInitDone_portUser (s : State) :
    (setInitDone s).portUser = s.portUser := rfl
@[simp] theorem setInitDone_arenaByte (s : State) (a : Nat) :
    (setInitDone s).arenaByte a = s.arenaByte a := rfl

/-! ## clearRegisters -/

@[simp] theorem clearRegisters_params (s : State) :
    (clearRegisters s).params = s.params := rfl
@[simp] theorem clearRegisters_cmd (s : State) :
    (clearRegisters s).cmd = 0#64 := rfl
@[simp] theorem clearRegisters_opa (s : State) :
    (clearRegisters s).opa = 0#64 := rfl
@[simp] theorem clearRegisters_opb (s : State) :
    (clearRegisters s).opb = 0#64 := rfl
@[simp] theorem clearRegisters_status (s : State) :
    (clearRegisters s).status = Status.reset := rfl
@[simp] theorem clearRegisters_res0 (s : State) :
    (clearRegisters s).res0 = 0#64 := rfl
@[simp] theorem clearRegisters_res1 (s : State) :
    (clearRegisters s).res1 = 0#64 := rfl
@[simp] theorem clearRegisters_res2 (s : State) :
    (clearRegisters s).res2 = 0#64 := rfl
@[simp] theorem clearRegisters_res3 (s : State) :
    (clearRegisters s).res3 = 0#64 := rfl
@[simp] theorem clearRegisters_cfgBase (s : State) :
    (clearRegisters s).cfgBase = 0#64 := rfl
@[simp] theorem clearRegisters_cfgNFrames (s : State) :
    (clearRegisters s).cfgNFrames = 0#64 := rfl
@[simp] theorem clearRegisters_cfgNWords (s : State) :
    (clearRegisters s).cfgNWords = 0#64 := rfl
@[simp] theorem clearRegisters_cfgBmFrames (s : State) :
    (clearRegisters s).cfgBmFrames = 0#64 := rfl
@[simp] theorem clearRegisters_mem (s : State) :
    (clearRegisters s).mem = s.mem := rfl
@[simp] theorem clearRegisters_unspecified (s : State) :
    (clearRegisters s).unspecified = s.unspecified := rfl
@[simp] theorem clearRegisters_raced (s : State) :
    (clearRegisters s).raced = [] := rfl
@[simp] theorem clearRegisters_draws (s : State) :
    (clearRegisters s).draws = s.draws := rfl
@[simp] theorem clearRegisters_agenda (s : State) :
    (clearRegisters s).agenda = s.agenda := rfl
@[simp] theorem clearRegisters_lastRead (s : State) :
    (clearRegisters s).lastRead = s.lastRead := rfl
@[simp] theorem clearRegisters_portUser (s : State) :
    (clearRegisters s).portUser = none := rfl
@[simp] theorem clearRegisters_arenaByte (s : State) (a : Nat) :
    (clearRegisters s).arenaByte a = s.arenaByte a := rfl

/-! ## Register accesses -/

/-- What a write to CMD, OPA or OPB can do (10_state R33, R34). -/
theorem portWrite_next {g : Nat} {b : Bool} {take : State → State} {s t : State} (h : portWrite g b take s = .next t) :
    (s.status.busy = true ∧ t = s.noteOverrun) ∨
    (s.status.busy = false ∧ s.portTaken g = false ∧ t = (take s).holdPort g b) := by
  unfold portWrite at h
  cases hb : s.status.busy <;> simp only [hb, if_true, Bool.false_eq_true, if_false] at h
  · cases hp : s.portTaken g <;> simp only [hp, if_true, Bool.false_eq_true, if_false, reduceCtorEq,
      Host.Outcome.next.injEq] at h
    exact .inr ⟨rfl, rfl, h.symm⟩
  · exact .inl ⟨rfl, by simpa using h.symm⟩

/-- What a write to any register can do: it is ignored, dropped, or taken (10_state R28, R33, R34). -/
theorem writeReg_next {g : Nat} {r : Reg} {v : Word} {s t : State} (h : writeReg g r v s = .next t) :
    t = s ∨ (s.status.busy = true ∧ t = s.noteOverrun) ∨
    (s.status.busy = false ∧ (t = (acceptCommand v s).holdPort g true ∨ t = (s.takeOpa v).holdPort g false ∨
      t = (s.takeOpb v).holdPort g false)) := by
  cases r <;> simp only [writeReg, Host.Outcome.next.injEq] at h
  case cmd => rcases portWrite_next h with hh | ⟨hb, -, ht⟩; exacts [.inr (.inl hh), .inr (.inr ⟨hb, .inl ht⟩)]
  case opa => rcases portWrite_next h with hh | ⟨hb, -, ht⟩; exacts [.inr (.inl hh), .inr (.inr ⟨hb, .inr (.inl ht)⟩)]
  case opb => rcases portWrite_next h with hh | ⟨hb, -, ht⟩; exacts [.inr (.inl hh), .inr (.inr ⟨hb, .inr (.inr ht)⟩)]
  all_goals exact .inl h.symm

/-- What an access to the register window can do (10_state R33 to R36). -/
theorem regAccess_next {g addr width : Nat} {w : Option Word} {s t : State} (h : regAccess g addr width w s = .next t) :
    t = s ∨ (∃ v p, t = s.returnRegister v p) ∨
    (s.status.busy = true ∧ t = s.noteOverrun) ∨
    (s.status.busy = false ∧ ∃ v, t = (acceptCommand v s).holdPort g true ∨ t = (s.takeOpa v).holdPort g false ∨
      t = (s.takeOpb v).holdPort g false) := by
  unfold regAccess at h
  cases hr : s.slotOf addr width with
  | none => simp [hr] at h
  | some r =>
    cases w with
    | none => simp only [hr, Host.Outcome.next.injEq] at h; exact .inr (.inl ⟨_, _, h.symm⟩)
    | some v =>
      simp only [hr] at h
      rcases writeReg_next h with rfl | hd | ⟨hb, ht⟩
      · exact .inl rfl
      · exact .inr (.inr (.inl hd))
      · exact .inr (.inr (.inr ⟨hb, v, ht⟩))

/-- The slot at offset `8 * index` of the window (10_state R20). -/
theorem slotOf_index (s : State) (index : Nat) (h : index < 16) :
    s.slotOf (s.params.mmioBase + 8 * index) 8 = some (slotAt index) := by
  have e : s.params.mmioBase + 8 * index - s.params.mmioBase = 8 * index := by omega
  unfold State.slotOf
  rw [e, if_pos ⟨rfl, by omega, by omega, by omega⟩, Nat.mul_div_cancel_left _ (by omega)]

/-! ## Arena accesses -/

/-- What a host read of the arena can do (20_memory R57, R59). -/
theorem arenaRead_next {a n : Nat} {s t : State} (h : arenaRead a n s = .next t) :
    s.inArena a (a + n) = true ∧ ∃ bs k, s.draws ≤ k ∧ t = s.returnBytes bs k := by
  unfold arenaRead at h
  cases hi : s.inArena a (a + n) <;> simp only [hi, if_true, Bool.true_eq_false, if_false, reduceCtorEq,
    Host.Outcome.next.injEq] at h
  refine ⟨rfl, _, _, ?_, h.symm⟩
  unfold State.drawsAfterRead
  split <;> omega

/-- What a host write to the arena can do (20_memory R57; 70_reset_and_hazards R236). -/
theorem arenaWrite_next {a : Nat} {bs : List Byte} {s t : State} (h : arenaWrite a bs s = .next t) :
    s.inArena a (a + bs.length) = true ∧ s.hitsBitmap a (a + bs.length) = false ∧
      t = (s.recordRaces a bs.length).writeBytes a bs := by
  unfold arenaWrite at h
  cases hi : s.inArena a (a + bs.length) <;> simp only [hi, if_true, Bool.true_eq_false, if_false, reduceCtorEq] at h
  cases hb : s.hitsBitmap a (a + bs.length) <;> simp only [hb, if_true, Bool.false_eq_true, if_false, reduceCtorEq,
    Host.Outcome.next.injEq] at h
  exact ⟨rfl, rfl, h.symm⟩

/-! ## Reset -/

theorem abandon_same (s : State) : SameButBytes s (abandon s) := by
  unfold abandon
  split
  · exact (drawRange_same s _ _).trans (drawRange_same _ _ _)
  · exact drawRange_same s _ _

/-! ## withAgenda -/

@[simp] theorem withAgenda_params (s : State) (l : List Move) :
    (s.withAgenda l).params = s.params := rfl
@[simp] theorem withAgenda_cmd (s : State) (l : List Move) :
    (s.withAgenda l).cmd = s.cmd := rfl
@[simp] theorem withAgenda_opa (s : State) (l : List Move) :
    (s.withAgenda l).opa = s.opa := rfl
@[simp] theorem withAgenda_opb (s : State) (l : List Move) :
    (s.withAgenda l).opb = s.opb := rfl
@[simp] theorem withAgenda_status (s : State) (l : List Move) :
    (s.withAgenda l).status = s.status := rfl
@[simp] theorem withAgenda_res0 (s : State) (l : List Move) :
    (s.withAgenda l).res0 = s.res0 := rfl
@[simp] theorem withAgenda_res1 (s : State) (l : List Move) :
    (s.withAgenda l).res1 = s.res1 := rfl
@[simp] theorem withAgenda_res2 (s : State) (l : List Move) :
    (s.withAgenda l).res2 = s.res2 := rfl
@[simp] theorem withAgenda_res3 (s : State) (l : List Move) :
    (s.withAgenda l).res3 = s.res3 := rfl
@[simp] theorem withAgenda_cfgBase (s : State) (l : List Move) :
    (s.withAgenda l).cfgBase = s.cfgBase := rfl
@[simp] theorem withAgenda_cfgNFrames (s : State) (l : List Move) :
    (s.withAgenda l).cfgNFrames = s.cfgNFrames := rfl
@[simp] theorem withAgenda_cfgNWords (s : State) (l : List Move) :
    (s.withAgenda l).cfgNWords = s.cfgNWords := rfl
@[simp] theorem withAgenda_cfgBmFrames (s : State) (l : List Move) :
    (s.withAgenda l).cfgBmFrames = s.cfgBmFrames := rfl
@[simp] theorem withAgenda_mem (s : State) (l : List Move) :
    (s.withAgenda l).mem = s.mem := rfl
@[simp] theorem withAgenda_unspecified (s : State) (l : List Move) :
    (s.withAgenda l).unspecified = s.unspecified := rfl
@[simp] theorem withAgenda_raced (s : State) (l : List Move) :
    (s.withAgenda l).raced = s.raced := rfl
@[simp] theorem withAgenda_draws (s : State) (l : List Move) :
    (s.withAgenda l).draws = s.draws := rfl
@[simp] theorem withAgenda_agenda (s : State) (l : List Move) :
    (s.withAgenda l).agenda = l := rfl
@[simp] theorem withAgenda_lastRead (s : State) (l : List Move) :
    (s.withAgenda l).lastRead = s.lastRead := rfl
@[simp] theorem withAgenda_portUser (s : State) (l : List Move) :
    (s.withAgenda l).portUser = s.portUser := rfl
@[simp] theorem withAgenda_arenaByte (s : State) (l : List Move) (a : Nat) :
    (s.withAgenda l).arenaByte a = s.arenaByte a := rfl
@[simp] theorem withAgenda_contended (s : State) (l : List Move) (a : Nat) :
    (s.withAgenda l).contended a = s.contended a := rfl
@[simp] theorem withAgenda_slotOf (s : State) (l : List Move) (a w : Nat) :
    (s.withAgenda l).slotOf a w = s.slotOf a w := rfl
theorem withAgenda_self (s : State) : s.withAgenda s.agenda = s := rfl

/-! ## The whole step -/

theorem step_nil {s : State} (h : s.agenda = []) : step s = engineMove s := by simp [step, advance, h]
theorem step_engine {s : State} {rest : List Move} (h : s.agenda = .engine :: rest) :
    step s = engineMove (s.withAgenda rest) := by simp [step, advance, h]
theorem step_reset {s : State} {rest : List Move} (h : s.agenda = .reset :: rest) :
    step s = .next (blockReset (s.withAgenda rest)) := by simp [step, advance, h]
theorem step_host {s : State} {g : Nat} {a : Access} {rest : List Move} (h : s.agenda = .host g a :: rest) :
    step s = hostAccess g a (s.withAgenda rest) := by simp [step, advance, h]

/-- What the engine's move can do (20_memory R52). -/
theorem engineMove_next {s t : State} (h : engineMove s = .next t) :
    t = s ∨ (s.status.busy = true ∧ perform s = .next t) := by
  unfold engineMove at h
  cases hb : s.status.busy <;> simp only [hb, if_true, Bool.false_eq_true, if_false, Host.Outcome.next.injEq] at h
  · exact .inl h.symm
  · exact .inr ⟨rfl, h⟩

/-- What a step can do to the state `u` in which its move has left the agenda: nothing, the perform step of the command
in flight, a reset, or one host access. -/
theorem step_next {s t : State} (h : step s = .next t) :
    ∃ rest u, u = s.withAgenda rest ∧
      (t = u ∨ (s.status.busy = true ∧ perform u = .next t) ∨ (s.agenda.head? = some .reset ∧ t = blockReset u) ∨
        ∃ g a, s.agenda.head? = some (.host g a) ∧ hostAccess g a u = .next t) := by
  cases ha : s.agenda with
  | nil =>
    rw [step_nil ha] at h
    refine ⟨[], s, by rw [← ha]; rfl, ?_⟩
    rcases engineMove_next h with h1 | h1
    exacts [.inl h1, .inr (.inl h1)]
  | cons m rest =>
    refine ⟨rest, s.withAgenda rest, rfl, ?_⟩
    cases m with
    | engine =>
      rw [step_engine ha] at h
      rcases engineMove_next h with h1 | h1
      exacts [.inl h1, .inr (.inl h1)]
    | reset =>
      rw [step_reset ha] at h
      exact .inr (.inr (.inl ⟨rfl, by simpa using h.symm⟩))
    | host g a =>
      rw [step_host ha] at h
      exact .inr (.inr (.inr ⟨g, a, rfl, h⟩))

/-! ## Runs -/

/-- A run goes on from a next state, and stops where a step stops, on any machine. -/
theorem run_of_step (M : Host.Core) (k : Nat) (s : M.State) :
    (∀ s', M.step s = .next s' → M.run (k + 1) s = M.run k s') ∧
    (∀ f, M.step s = .fault f → M.run (k + 1) s = .fault f) ∧
    (∀ r, M.step s = .refused r → M.run (k + 1) s = .refused r) := by
  refine ⟨fun s' h => ?_, fun f h => ?_, fun r h => ?_⟩ <;> simp only [Host.Core.run, h]

theorem run_succ {s s' : State} (k : Nat) (h : step s = .next s') :
    Sys2Proof.core.run (k + 1) s = Sys2Proof.core.run k s' :=
  (run_of_step Sys2Proof.core k s).1 s' h

/-- A run in two parts, on any machine. -/
theorem run_add (M : Host.Core) (j k : Nat) (s s' : M.State) (h : M.run j s = .next s') :
    M.run (j + k) s = M.run k s' := by
  induction j generalizing s with
  | zero =>
    simp only [Host.Core.run, Host.Outcome.next.injEq] at h
    rw [h, Nat.zero_add]
  | succ j ih =>
    rw [show j + 1 + k = j + k + 1 by omega]
    have hj := run_of_step M j s
    have hjk := run_of_step M (j + k) s
    cases hs : M.step s with
    | next u => rw [hj.1 u hs] at h; rw [hjk.1 u hs]; exact ih u h
    | fault f => rw [hj.2.1 f hs] at h; cases h
    | refused r => rw [hj.2.2 r hs] at h; cases h

end Sys2Proof.Machine
end

