-- ==== Sys2Proof/Laws/PerInstr.lean ====
section
/-! SUPPORT. Facts about every command as syntax, one lemma per constructor. -/

namespace Sys2Proof.Laws

/-- The decoder reads the encoding of a command as that command (30_encoding R81, R86). -/
def EncodeDecodes.Statement (i : Instr) : Prop := decode (encode i) = .ok i

/-- The encoding of a command has RSVD = 0: bits 63:6 are 0 (30_encoding R80). -/
def EncodesInSixBits.Statement (i : Instr) : Prop := (encode i).toNat < 64

theorem EncodeDecodes.fbaInit : EncodeDecodes.Statement .fbaInit := by unfold EncodeDecodes.Statement; rfl
theorem EncodesInSixBits.fbaInit : EncodesInSixBits.Statement .fbaInit := by unfold EncodesInSixBits.Statement; decide
theorem EncodeDecodes.fbaAlloc4K : EncodeDecodes.Statement .fbaAlloc4K := by unfold EncodeDecodes.Statement; rfl
theorem EncodesInSixBits.fbaAlloc4K : EncodesInSixBits.Statement .fbaAlloc4K := by unfold EncodesInSixBits.Statement; decide
theorem EncodeDecodes.fbaAlloc2M : EncodeDecodes.Statement .fbaAlloc2M := by unfold EncodeDecodes.Statement; rfl
theorem EncodesInSixBits.fbaAlloc2M : EncodesInSixBits.Statement .fbaAlloc2M := by unfold EncodesInSixBits.Statement; decide
theorem EncodeDecodes.fbaAlloc1G : EncodeDecodes.Statement .fbaAlloc1G := by unfold EncodeDecodes.Statement; rfl
theorem EncodesInSixBits.fbaAlloc1G : EncodesInSixBits.Statement .fbaAlloc1G := by unfold EncodesInSixBits.Statement; decide
theorem EncodeDecodes.fbaZalloc4K : EncodeDecodes.Statement .fbaZalloc4K := by unfold EncodeDecodes.Statement; rfl
theorem EncodesInSixBits.fbaZalloc4K : EncodesInSixBits.Statement .fbaZalloc4K := by unfold EncodesInSixBits.Statement; decide
theorem EncodeDecodes.fbaZalloc2M : EncodeDecodes.Statement .fbaZalloc2M := by unfold EncodeDecodes.Statement; rfl
theorem EncodesInSixBits.fbaZalloc2M : EncodesInSixBits.Statement .fbaZalloc2M := by unfold EncodesInSixBits.Statement; decide
theorem EncodeDecodes.fbaZalloc1G : EncodeDecodes.Statement .fbaZalloc1G := by unfold EncodeDecodes.Statement; rfl
theorem EncodesInSixBits.fbaZalloc1G : EncodesInSixBits.Statement .fbaZalloc1G := by unfold EncodesInSixBits.Statement; decide
theorem EncodeDecodes.fbaDealloc4K : EncodeDecodes.Statement .fbaDealloc4K := by unfold EncodeDecodes.Statement; rfl
theorem EncodesInSixBits.fbaDealloc4K : EncodesInSixBits.Statement .fbaDealloc4K := by unfold EncodesInSixBits.Statement; decide
theorem EncodeDecodes.fbaDealloc2M : EncodeDecodes.Statement .fbaDealloc2M := by unfold EncodeDecodes.Statement; rfl
theorem EncodesInSixBits.fbaDealloc2M : EncodesInSixBits.Statement .fbaDealloc2M := by unfold EncodesInSixBits.Statement; decide
theorem EncodeDecodes.fbaDealloc1G : EncodeDecodes.Statement .fbaDealloc1G := by unfold EncodeDecodes.Statement; rfl
theorem EncodesInSixBits.fbaDealloc1G : EncodesInSixBits.Statement .fbaDealloc1G := by unfold EncodesInSixBits.Statement; decide
theorem EncodeDecodes.pteEnc : EncodeDecodes.Statement .pteEnc := by unfold EncodeDecodes.Statement; rfl
theorem EncodesInSixBits.pteEnc : EncodesInSixBits.Statement .pteEnc := by unfold EncodesInSixBits.Statement; decide
theorem EncodeDecodes.pteDec : EncodeDecodes.Statement .pteDec := by unfold EncodeDecodes.Statement; rfl
theorem EncodesInSixBits.pteDec : EncodesInSixBits.Statement .pteDec := by unfold EncodesInSixBits.Statement; decide

end Sys2Proof.Laws
end

