-- ==== Sys2Proof/Laws/Search.lean ====
section
/-! SUPPORT. What a search that answers has found (41_frame_allocator R105 to R108). -/

namespace Sys2Proof.Machine

/-- A free window is `n` free bits (00_scope R11). -/
theorem windowFree_iff (x : Word) (n i : Nat) (h : i + n ≤ 64) :
    windowFree x n i = true ↔ ∀ b, i ≤ b → b < i + n → x.getLsbD b = false := by
  simp only [windowFree, beq_iff_eq]
  constructor
  · intro hz b h1 h2
    have hb := congrArg (fun y => y.getLsbD (b - i)) hz
    have e : i + (b - i) = b := by omega
    have hlt : b - i < n := by omega
    simp only [BitVec.getLsbD_and, BitVec.getLsbD_ushiftRight, e, ones_getLsbD n (b - i) (by omega), hlt, decide_true,
      Bool.and_true, BitVec.getLsbD_zero] at hb
    exact hb
  · intro hf
    apply BitVec.eq_of_getLsbD_eq
    intro b hb
    simp only [BitVec.getLsbD_and, BitVec.getLsbD_ushiftRight, ones_getLsbD n b hb, BitVec.getLsbD_zero]
    by_cases hbn : b < n
    · simp [hf (i + b) (by omega) (by omega)]
    · simp [hbn]

theorem wordsFree_iff (s : State) (w m : Nat) :
    s.wordsFree w m = true ↔ ∀ v, w ≤ v → v < w + m → s.bm v = 0#64 := by
  simp only [State.wordsFree, List.all_eq_true, List.mem_range, beq_iff_eq]
  constructor
  · intro h v h1 h2
    have := h (v - w) (by omega)
    rwa [show w + (v - w) = v by omega] at this
  · intro h t ht; exact h (w + t) (by omega) (by omega)

theorem bit_of_word_zero (s : State) (j : Nat) (h : s.bm (j / 64) = 0#64) : s.bit j = false := by
  simp [State.bit, h]

theorem searchInWord_some {s : State} {n k : Nat} (hn : 1 ≤ n ∧ n ≤ 64) (h : s.searchInWord n = some k) :
    k + n ≤ 64 * s.numWords ∧ ∀ j, k ≤ j → j < k + n → s.bit j = false := by
  obtain ⟨w, hw, hf⟩ := List.exists_of_findSome?_eq_some h
  rw [List.mem_range] at hw
  split at hf
  · obtain ⟨i, hi, rfl⟩ := Option.map_eq_some_iff.1 hf
    obtain ⟨hp, hm, -⟩ := List.find?_range_eq_some.1 hi
    rw [List.mem_range] at hm
    refine ⟨by omega, fun j h1 h2 => ?_⟩
    have e1 : j / 64 = w := by omega
    have := (windowFree_iff (s.bm w) n i (by omega)).1 hp (j % 64) (by omega) (by omega)
    simpa [State.bit, e1] using this
  · simp at hf

theorem multiWordTurns_bound {words q need t : Nat} (hq : 0 < q) (h : t < multiWordTurns words q need) :
    t * q + need ≤ words := by
  unfold multiWordTurns at h
  split at h
  · have h1 : t ≤ (words - need) / q := by omega
    have h2 : t * q ≤ words - need := le_trans (Nat.mul_le_mul_right q h1) (Nat.div_mul_le_self _ _)
    omega
  · omega

theorem runFits_iff (s : State) (q r w : Nat) (hr : r < 64) :
    s.runFits q r w = true ↔ ∀ j, 64 * w ≤ j → j < 64 * (w + q) + r → s.bit j = false := by
  simp only [State.runFits, Bool.and_eq_true, wordsFree_iff, Bool.or_eq_true, beq_iff_eq]
  constructor
  · rintro ⟨h1, h2⟩ j hj1 hj2
    by_cases hj : j < 64 * (w + q)
    · exact bit_of_word_zero s j (h1 (j / 64) (by omega) (by omega))
    · rcases h2 with h2 | h2
      · omega
      · have e : j / 64 = w + q := by omega
        have hb := congrArg (fun y => y.getLsbD (j % 64)) h2
        have hlt : j % 64 < r := by omega
        simp only [BitVec.getLsbD_and, ones_getLsbD r (j % 64) (by omega), hlt, decide_true, Bool.and_true,
          BitVec.getLsbD_zero] at hb
        simpa [State.bit, e] using hb
  · intro h
    refine ⟨fun v h1 h2 => ?_, ?_⟩
    · apply BitVec.eq_of_getLsbD_eq
      intro b hb
      have := h (64 * v + b) (by omega) (by omega)
      have e1 : (64 * v + b) / 64 = v := by omega
      have e2 : (64 * v + b) % 64 = b := by omega
      simpa [State.bit, e1, e2] using this
    · right
      apply BitVec.eq_of_getLsbD_eq
      intro b hb
      simp only [BitVec.getLsbD_and, ones_getLsbD r b hb, BitVec.getLsbD_zero]
      by_cases hbr : b < r
      · have := h (64 * (w + q) + b) (by omega) (by omega)
        have e1 : (64 * (w + q) + b) / 64 = w + q := by omega
        have e2 : (64 * (w + q) + b) % 64 = b := by omega
        simp only [State.bit, e1, e2] at this
        simp [this]
      · simp [hbr]

theorem searchMultiWord_some {s : State} {n k : Nat} (hn : 64 < n) (h : s.searchMultiWord n = some k) :
    k + n ≤ 64 * s.numWords ∧ ∀ j, k ≤ j → j < k + n → s.bit j = false := by
  obtain ⟨t, ht, hf⟩ := List.exists_of_findSome?_eq_some h
  rw [List.mem_range] at ht
  have hb := multiWordTurns_bound (by omega) ht
  split at hf
  · rename_i hfit
    rw [runFits_iff s _ _ _ (by omega)] at hfit
    simp only [Option.some.injEq] at hf
    subst hf
    generalize hq : t * (n / 64) = w at hb hfit ⊢
    have : n = 64 * (n / 64) + n % 64 := by omega
    refine ⟨?_, fun j h1 h2 => hfit j h1 (by omega)⟩
    by_cases hr : n % 64 > 0
    · simp only [hr, if_true] at hb; omega
    · simp only [hr, if_false] at hb; omega
  · simp at hf

/-- The group of a request is exactly its frames (41_frame_allocator R107; 90_conflicts C5). -/
theorem groupWords_eq (c : SizeClass) (count : Nat) (hc : c ≠ .c4k) (h : 1 ≤ count) :
    64 * groupWords c count = count * framesPer c := by
  cases c with
  | c4k => exact absurd rfl hc
  | c2m => simp only [groupWords, ceilDiv, framesPer]; omega
  | c1g => simp only [groupWords, ceilDiv, framesPer]; omega

theorem searchGroup_some {s : State} {c : SizeClass} {count k : Nat} (hc : c ≠ .c4k) (hn : 1 ≤ count)
    (h : s.searchGroup c count = some k) :
    k + count * framesPer c ≤ 64 * s.numWords ∧ (s.base + 4096 * k) % bytesPer c = 0 ∧
      ∀ j, k ≤ j → j < k + count * framesPer c → s.bit j = false := by
  obtain ⟨w, hw, hf⟩ := List.exists_of_findSome?_eq_some h
  split at hf
  · rename_i hcond
    simp only [Bool.and_eq_true, decide_eq_true_eq, State.groupAligned, beq_iff_eq, wordsFree_iff] at hcond
    obtain ⟨⟨ha, hfit⟩, hfree⟩ := hcond
    simp only [Option.some.injEq] at hf
    subst hf
    rw [← groupWords_eq c count hc hn]
    refine ⟨by omega, ?_, fun j h1 h2 => bit_of_word_zero s j (hfree (j / 64) (by omega) (by omega))⟩
    rwa [show 4096 * (64 * w) = w * 262144 by omega]
  · simp at hf

/-- Every search returns a run of free frames that the bitmap's words hold (41_frame_allocator R108). -/
theorem search_some {s : State} {c : SizeClass} {count k : Nat} (hn : count ≠ 0) (h : s.search c count = some k) :
    k + count * framesPer c ≤ 64 * s.numWords ∧ ∀ j, k ≤ j → j < k + count * framesPer c → s.bit j = false := by
  cases c with
  | c4k =>
    simp only [State.search] at h
    simp only [framesPer, Nat.mul_one]
    split at h
    · exact searchInWord_some (by omega) h
    · exact searchMultiWord_some (by omega) h
  | c2m =>
    obtain ⟨h1, -, h2⟩ := searchGroup_some (by simp) (by omega) h
    exact ⟨h1, h2⟩
  | c1g =>
    obtain ⟨h1, -, h2⟩ := searchGroup_some (by simp) (by omega) h
    exact ⟨h1, h2⟩

end Sys2Proof.Machine
end

