-- ==== Sys2Proof/Machine/Asm.lean ====
section
/-! DEFINITION. The assembler's text syntax: one line of a host command script (30_encoding R89, R90). What R89 leaves
open about white space and digits is fixed here and named in log 17. -/

namespace Sys2Proof.Machine

/-- Why the assembler refuses a line. -/
inductive AsmError where
  /-- The mnemonic is none of 30_encoding R89 and R90. -/
  | unknownMnemonic
  /-- The mnemonic takes another number of operands. -/
  | operandCount
  /-- An operand is no number of R89. -/
  | badNumber
  /-- An operand is neither a number nor a list of flag names. -/
  | badFlags
  /-- The line is refused by the last column of R90, or an operand does not fit 64 bits. -/
  | refused
deriving DecidableEq, Repr

/-- White space within a line. -/
def isBlank (c : Char) : Bool := c == ' ' || c == '\t'

/-- A text without the white space at its ends. -/
def trimText (t : List Char) : List Char := ((t.dropWhile isBlank).reverse.dropWhile isBlank).reverse

/-- The text before a comment: "`;` starts a comment" (30_encoding R89). -/
def dropComment (t : List Char) : List Char := t.takeWhile (fun c => c != ';')

/-- A text cut at every `sep`. -/
def splitAt (sep : Char) (t : List Char) : List (List Char) :=
  match t with
  | [] => [[]]
  | c :: rest =>
    match splitAt sep rest with
    | [] => [[c]]
    | first :: more => if c = sep then [] :: first :: more else (c :: first) :: more

/-- The operands of a line: comma-separated, none in an empty text. -/
def operandTexts (t : List Char) : List (List Char) :=
  if trimText t = [] then [] else (splitAt ',' t).map trimText

/-- The value of a digit below `radix`. -/
def digitValue (radix : Nat) (c : Char) : Option Nat :=
  let n := c.toNat
  let v := if 48 ≤ n ∧ n ≤ 57 then some (n - 48) else if 97 ≤ n ∧ n ≤ 102 then some (n - 87)
    else if 65 ≤ n ∧ n ≤ 70 then some (n - 55) else none
  v.filter (fun d => decide (d < radix))

/-- The value of a digit text, `acc` so far. -/
def digitsValue (radix acc : Nat) (t : List Char) : Option Nat :=
  match t with
  | [] => some acc
  | c :: rest => (digitValue radix c).bind (fun d => digitsValue radix (acc * radix + d) rest)

/-- A number in a radix: `_` may separate digits, and one digit at least must stand (30_encoding R89). -/
def radixNumber (radix : Nat) (t : List Char) : Option Nat :=
  let ds := t.filter (fun c => c != '_')
  if ds = [] then none else digitsValue radix 0 ds

/-- "Numbers are decimal, or hexadecimal with a `0x` prefix" (30_encoding R89). -/
def parseNumber (t : List Char) : Option Nat :=
  match t with
  | '0' :: 'x' :: rest => radixNumber 16 rest
  | _ => radixNumber 10 t

/-- The bit a flag name stands for (30_encoding R89; 42_pte_codec R160): `V R W X U G A D` are bits 0 to 7. -/
def flagBit (t : List Char) : Option Nat :=
  if t = ['V'] then some 1 else if t = ['R'] then some 2 else if t = ['W'] then some 4
  else if t = ['X'] then some 8 else if t = ['U'] then some 16 else if t = ['G'] then some 32
  else if t = ['A'] then some 64 else if t = ['D'] then some 128 else none

/-- The union of a list of flag names. -/
def flagUnion (ts : List (List Char)) : Option Nat :=
  match ts with
  | [] => some 0
  | t :: rest => (flagBit (trimText t)).bind (fun b => (flagUnion rest).map (fun u => b ||| u))

/-- `<flags>`: "a number, or a `|`-list of the flag names" (30_encoding R89). -/
def parseFlags (t : List Char) : Option Nat :=
  match parseNumber t with
  | some n => some n
  | none => flagUnion (splitAt '|' t)

/-- A line with no operand. -/
def noOperand (l : Line) (ops : List (List Char)) : Except AsmError Line :=
  match ops with
  | [] => .ok l
  | _ => .error .operandCount

/-- A line with one number. -/
def oneNumber (mk : Nat → Line) (ops : List (List Char)) : Except AsmError Line :=
  match ops with
  | [a] =>
    match parseNumber a with
    | some n => .ok (mk n)
    | none => .error .badNumber
  | _ => .error .operandCount

/-- A line with two numbers. -/
def twoNumbers (mk : Nat → Nat → Line) (ops : List (List Char)) : Except AsmError Line :=
  match ops with
  | [a, b] =>
    match parseNumber a, parseNumber b with
    | some m, some n => .ok (mk m n)
    | _, _ => .error .badNumber
  | _ => .error .operandCount

/-- A line with flags and a number; `flagsFirst` says which stands first. -/
def flagsAndNumber (flagsFirst : Bool) (mk : Nat → Nat → Line) (ops : List (List Char)) : Except AsmError Line :=
  match ops with
  | [a, b] =>
    match parseFlags (if flagsFirst then a else b), parseNumber (if flagsFirst then b else a) with
    | some f, some n => .ok (mk f n)
    | none, _ => .error .badFlags
    | some _, none => .error .badNumber
  | _ => .error .operandCount

/-- The table of spellings: 30_encoding R89, then the pseudo-instructions of R90. -/
def spellings : List (List Char × (List (List Char) → Except AsmError Line)) :=
  [("fba.init".toList, twoNumbers .init),
   ("fba.alloc.4k".toList, oneNumber (.alloc .c4k)), ("fba.alloc.2m".toList, oneNumber (.alloc .c2m)),
   ("fba.alloc.1g".toList, oneNumber (.alloc .c1g)),
   ("fba.zalloc.4k".toList, oneNumber (.zalloc .c4k)), ("fba.zalloc.2m".toList, oneNumber (.zalloc .c2m)),
   ("fba.zalloc.1g".toList, oneNumber (.zalloc .c1g)),
   ("fba.dealloc.4k".toList, twoNumbers (.dealloc .c4k)), ("fba.dealloc.2m".toList, twoNumbers (.dealloc .c2m)),
   ("fba.dealloc.1g".toList, twoNumbers (.dealloc .c1g)),
   ("pte.enc".toList, flagsAndNumber true .pteEnc), ("pte.dec".toList, oneNumber .pteDec),
   ("fba.frame".toList, noOperand .frame), ("fba.table".toList, noOperand .table),
   ("fba.free.4k".toList, oneNumber .free4k), ("pte.empty".toList, noOperand .pteEmpty),
   ("pte.branch".toList, oneNumber .pteBranch),
   ("pte.leaf".toList, flagsAndNumber false (fun f pa => .pteLeaf pa f))]

/-- The line of a mnemonic and its operands' text. -/
def parseCommand (mnemonic operands : List Char) : Except AsmError Line :=
  match spellings.find? (fun e => decide (e.1 = mnemonic)) with
  | some e => e.2 (operandTexts operands)
  | none => .error .unknownMnemonic

/-- The assembler on one line of text: nothing for an empty or comment line, else the line, checked (30_encoding R89,
R90). -/
def assembleLine (text : List Char) : Except AsmError (Option Line) :=
  let t := trimText (dropComment text)
  if t = [] then .ok none
  else
    match parseCommand (t.takeWhile (fun c => !isBlank c)) (t.dropWhile (fun c => !isBlank c)) with
    | .ok l => if l.ok then .ok (some l) else .error .refused
    | .error e => .error e

end Sys2Proof.Machine
end

