-- ==== Sys2Proof/Tests/Slice0.lean ====
section
/-! SUPPORT. Tests: ill-formed terms that WellFormed refuses, words written out from 30_encoding R80 and R81, single steps
whose expected results stand in 95_test_vectors (the row is named in each docstring), and for every statement with
hypotheses a state that meets them. -/

namespace Sys2Proof.Tests

open Sys2Proof.Machine Sys2Proof.Safety

set_option Elab.async false

/-! ## WellFormed refuses each ill-formed term (00_scope R7; 30_encoding R89, R90) -/

theorem test_wf_accepts : (Config.Params.wf { arenaBase := 4096, arenaLen := 4096, mmioBase := 128 }) := by decide
theorem test_wf_base : ¬ Config.Params.wf { arenaBase := 4097, arenaLen := 4096, mmioBase := 128 } := by decide
theorem test_wf_len : ¬ Config.Params.wf { arenaBase := 4096, arenaLen := 4095, mmioBase := 128 } := by decide
theorem test_wf_top : ¬ Config.Params.wf { arenaBase := 2 ^ 64 - 4096, arenaLen := 4097, mmioBase := 128 } := by decide
theorem test_wf_window : ¬ Config.Params.wf { arenaBase := 4096, arenaLen := 4096, mmioBase := 129 } := by decide
theorem test_wf_init : ¬ Line.wf (.init (2 ^ 64) 0) ∧ ¬ Line.wf (.init 0 (2 ^ 64)) := by decide
theorem test_wf_counts : ¬ Line.wf (.alloc .c4k (2 ^ 64)) ∧ ¬ Line.wf (.zalloc .c2m (2 ^ 64)) := by decide
theorem test_wf_dealloc : ¬ Line.wf (.dealloc .c1g (2 ^ 64) 0) ∧ ¬ Line.wf (.dealloc .c1g 0 (2 ^ 64)) := by decide
theorem test_wf_codec :
    ¬ Line.wf (.pteEnc (2 ^ 64) 0) ∧ ¬ Line.wf (.pteEnc 0 (2 ^ 64)) ∧ ¬ Line.wf (.pteDec (2 ^ 64)) := by decide
theorem test_wf_free : ¬ Line.wf (.free4k (2 ^ 64)) := by decide
theorem test_wf_branch : ¬ Line.wf (.pteBranch 4097) ∧ ¬ Line.wf (.pteBranch (2 ^ 56)) := by decide
theorem test_wf_leaf : ¬ Line.wf (.pteLeaf 4097 2) ∧ ¬ Line.wf (.pteLeaf (2 ^ 56) 2) ∧ ¬ Line.wf (.pteLeaf 4096 0xF1) ∧
    ¬ Line.wf (.pteLeaf 4096 (2 ^ 64 + 2)) := by decide

/-! ## Decoding: every command's word, bit by bit: RSVD 63:6, SC 5:4, OP 3:0 (30_encoding R80, R81) -/

theorem test_decode_init : decode (0#58 ++ 0b00#2 ++ 0b0001#4) = .ok .fbaInit := by decide
theorem test_decode_alloc4k : decode (0#58 ++ 0b00#2 ++ 0b0010#4) = .ok .fbaAlloc4K := by decide
theorem test_decode_alloc2m : decode (0#58 ++ 0b01#2 ++ 0b0010#4) = .ok .fbaAlloc2M := by decide
theorem test_decode_alloc1g : decode (0#58 ++ 0b10#2 ++ 0b0010#4) = .ok .fbaAlloc1G := by decide
theorem test_decode_zalloc4k : decode (0#58 ++ 0b00#2 ++ 0b0011#4) = .ok .fbaZalloc4K := by decide
theorem test_decode_zalloc2m : decode (0#58 ++ 0b01#2 ++ 0b0011#4) = .ok .fbaZalloc2M := by decide
theorem test_decode_zalloc1g : decode (0#58 ++ 0b10#2 ++ 0b0011#4) = .ok .fbaZalloc1G := by decide
theorem test_decode_dealloc4k : decode (0#58 ++ 0b00#2 ++ 0b0100#4) = .ok .fbaDealloc4K := by decide
theorem test_decode_dealloc2m : decode (0#58 ++ 0b01#2 ++ 0b0100#4) = .ok .fbaDealloc2M := by decide
theorem test_decode_dealloc1g : decode (0#58 ++ 0b10#2 ++ 0b0100#4) = .ok .fbaDealloc1G := by decide
theorem test_decode_enc : decode (0#58 ++ 0b00#2 ++ 0b1000#4) = .ok .pteEnc := by decide
theorem test_decode_dec : decode (0#58 ++ 0b00#2 ++ 0b1001#4) = .ok .pteDec := by decide

/-- 95_test_vectors section 5.1: illegal words, each for its reason. -/
theorem test_decode_illegal :
    decode 0x00#64 = .error .reservedOp ∧ decode 0x05#64 = .error .reservedOp ∧ decode 0x0A#64 = .error .reservedOp ∧
    decode 0x0F#64 = .error .reservedOp ∧ decode 0x11#64 = .error .sizeClassNotTaken ∧
    decode 0x18#64 = .error .sizeClassNotTaken ∧ decode 0x29#64 = .error .sizeClassNotTaken ∧
    decode 0x32#64 = .error .reservedSizeClass ∧ decode 0x34#64 = .error .reservedSizeClass ∧
    decode 0x41#64 = .error .reservedBits ∧ decode 0x8000000000000002#64 = .error .reservedBits := by decide

theorem test_table_word : decodeTableWord 64 0x23 = some .fbaZalloc1G ∧ decodeTableWord 64 (2 ^ 64 + 1) = none := by decide

/-! ## States for the tests -/

/-- Whether an outcome is a next state of which `p` holds. -/
def nextAnd (o : Host.Outcome State Fault Refusal) (p : State → Bool) : Bool :=
  match o with
  | .next t => p t
  | .fault _ => false
  | .refused _ => false

theorem of_nextAnd {o : Host.Outcome State Fault Refusal} {p : State → Bool} (h : nextAnd o p = true) :
    ∃ t, o = .next t ∧ p t = true := by
  cases o with
  | next t => exact ⟨t, rfl, h⟩
  | fault f => cases h
  | refused r => cases h

/-- The arenas of configurations E1 and E2 of 95_test_vectors. -/
def e1 : Config.Params := { arenaBase := 0x80000000, arenaLen := 0x01000000, mmioBase := 0x02000000 }
def e2 : Config.Params := { arenaBase := 0x10000000, arenaLen := 0x00100000, mmioBase := 0x02000000 }

/-- STATUS right after a successful INIT. -/
def afterInit : Status := { Status.reset with done := true, initDone := true }

/-- Fresh E2: 70 frames, 2 words, 1 bitmap frame; `BM[0] = 1`, padding bits 70 to 127. -/
def fresh2 : State :=
  { State.resetWith e2 with
    status := afterInit, cfgBase := 0x10000000#64, cfgNFrames := 70#64, cfgNWords := 2#64, cfgBmFrames := 1#64
    mem := [(0x10000000, 1#8), (0x10000008, 0xC0#8)] ++ (List.range 7).map (fun i => (0x10000009 + i, 0xFF#8))
    unspecified := [{ lo := 0x10000010, hi := 0x10100000, tag := 0 }] }

/-- Fresh E1: 1024 frames, 16 words, 1 bitmap frame, no padding. -/
def fresh1 : State :=
  { State.resetWith e1 with
    status := afterInit, cfgBase := 0x80000000#64, cfgNFrames := 1024#64, cfgNWords := 16#64, cfgBmFrames := 1#64
    mem := [(0x80000000, 1#8)], unspecified := [{ lo := 0x80000080, hi := 0x81000000, tag := 0 }] }

/-- E1 after V-B1 of 95_test_vectors: `BM[8..15] = ones(64)`. -/
def afterB1 : State :=
  { fresh1 with mem := (0x80000000, 1#8) :: (List.range 64).map (fun i => (0x80000040 + i, 0xFF#8)) }

/-- The state with a command just accepted and the engine's move next. -/
def offered (i : Instr) (a b : Nat) (s : State) : State :=
  { acceptCommand (encode i) s with opa := BitVec.ofNat 64 a, opb := BitVec.ofNat 64 b }

/-- Whether a command offered in `s` ends with RES0, RES1, RES2, RES3 and STATUS as listed. -/
def endsWith (i : Instr) (a b : Nat) (s : State) (expected : List Nat) : Bool :=
  nextAnd (step (offered i a b s)) (fun t =>
    [t.res0.toNat, t.res1.toNat, t.res2.toNat, t.res3.toNat, t.status.toWord.toNat] == expected)

/-- Whether it leaves these bitmap words. -/
def leavesWords (i : Instr) (a b : Nat) (s : State) (expected : List Nat) : Bool :=
  nextAnd (step (offered i a b s)) (fun t => (List.range expected.length).map (fun w => (t.bm w).toNat) == expected)

/-! ## Single steps from 95_test_vectors -/

/-- V-I2. -/
theorem test_init : endsWith .fbaInit 0x10000000 0x10046000 (State.resetWith e2) [70, 2, 1, 0, 0x0A] = true ∧
    leavesWords .fbaInit 0x10000000 0x10046000 (State.resetWith e2) [1, 0xFFFFFFFFFFFFFFC0] = true := by decide +kernel
/-- V-I3, V-I6, V-I9, V-I11, V-I12. -/
theorem test_init_corners :
    leavesWords .fbaInit 0x10000000 0x10041800 (State.resetWith e2) [1, 0xFFFFFFFFFFFFFFFE] = true ∧
    leavesWords .fbaInit 0x10000000 0x10001000 (State.resetWith e2) [0xFFFFFFFFFFFFFFFF] = true ∧
    endsWith .fbaInit 0x10000800 0x10000900 (State.resetWith e2) [0, 0, 0, 0, 0xC16] = true ∧
    endsWith .fbaInit 0x10000000 0x10100001 (State.resetWith e2) [0, 0, 0, 0, 0xB16] = true ∧
    endsWith .fbaInit 0x80000000 0x80400000 fresh1 [0, 0, 0, 0, 0xA1E] = true := by decide +kernel
/-- V-A1, V-A10, V-A14, V-A22. -/
theorem test_alloc4k :
    endsWith .fbaAlloc4K 1 0 fresh1 [0x80001000, 1, 0, 0, 0x0A] = true ∧
    leavesWords .fbaAlloc4K 65 0 fresh1 [1, 0xFFFFFFFFFFFFFFFF, 1] = true ∧
    leavesWords .fbaAlloc4K 128 0 fresh1 [1, 0, 0xFFFFFFFFFFFFFFFF, 0xFFFFFFFFFFFFFFFF, 0] = true ∧
    endsWith .fbaAlloc4K 63 0 fresh2 [0x10001000, 63, 0, 0, 0x0A] = true := by decide +kernel
/-- V-A17, V-A18, V-A19, V-A21. -/
theorem test_alloc4k_errors :
    endsWith .fbaAlloc4K 0xFFFFFFFFFFFFFFFF 0 fresh1 [0, 0, 0, 0, 0x20E] = true ∧
    endsWith .fbaAlloc4K 0 0 fresh1 [0, 0, 0, 0, 0xC1E] = true ∧
    endsWith .fbaAlloc4K 1 0 (State.resetWith e1) [0, 0, 0, 0, 0x916] = true ∧
    endsWith .fbaAlloc4K 65 0 fresh2 [0, 0, 0, 0, 0x20E] = true := by decide +kernel
/-- V-B1. -/
theorem test_alloc2m : endsWith .fbaAlloc2M 1 0 fresh1 [0x80200000, 512, 0, 0, 0x0A] = true ∧
    leavesWords .fbaAlloc2M 1 0 fresh1 ([1, 0, 0, 0, 0, 0, 0, 0] ++ List.replicate 8 0xFFFFFFFFFFFFFFFF) = true := by
  decide +kernel
/-- V-B2. -/
theorem test_alloc2m_exhausted : endsWith .fbaAlloc2M 1 0 afterB1 [0, 0, 0, 0, 0x20E] = true := by decide +kernel
/-- V-C1, V-C5. -/
theorem test_alloc1g_errors : endsWith .fbaAlloc1G 1 0 fresh1 [0, 0, 0, 0, 0x61E] = true ∧
    endsWith .fbaAlloc1G 2 0 fresh1 [0, 0, 0, 0, 0x20E] = true := by decide +kernel
/-- V-Z1: a byte 0xAA of the frame becomes 0. -/
theorem test_zalloc4k : nextAnd (step (offered .fbaZalloc4K 1 0 (fresh1.writeBytes 0x80001FFF [0xAA#8])))
    (fun t => t.arenaByte 0x80001000 == 0#8 && t.arenaByte 0x80001FFF == 0#8 && (t.bm 0).toNat == 3 &&
      t.res0.toNat == 0x80001000) = true := by decide +kernel
/-- V-Z3. -/
theorem test_zalloc2m : nextAnd (step (offered .fbaZalloc2M 1 0 (fresh1.writeBytes 0x803FFFFF [0xAA#8, 0xAA#8])))
    (fun t => t.arenaByte 0x803FFFFF == 0#8 && t.arenaByte 0x80400000 == 0xAA#8 &&
      (t.bm 15).toNat == 0xFFFFFFFFFFFFFFFF && t.res1.toNat == 512) = true := by decide +kernel
/-- V-Z6. -/
theorem test_zalloc1g_unsupported : endsWith .fbaZalloc1G 1 0 fresh1 [0, 0, 0, 0, 0x61E] = true := by decide +kernel
/-- V-D2, V-D3, V-D5, V-D7. -/
theorem test_dealloc4k_errors :
    endsWith .fbaDealloc4K 0x80001000 1 fresh1 [0, 0, 0, 0, 0x31E] = true ∧
    endsWith .fbaDealloc4K 0x80001000 2 (fresh1.writeBytes 0x80000000 [3#8]) [0, 0, 0, 0, 0x31E] = true ∧
    endsWith .fbaDealloc4K 0x80000000 1 fresh1 [0, 0, 0, 0, 0xB1E] = true ∧
    endsWith .fbaDealloc4K 0x803FF000 2 fresh1 [0, 0, 0, 0, 0xB1E] = true := by decide +kernel
/-- V-D1. -/
theorem test_dealloc4k :
    leavesWords .fbaDealloc4K 0x80001000 1 (fresh1.writeBytes 0x80000000 [3#8]) [1, 0] = true := by decide +kernel
/-- V-D14. -/
theorem test_dealloc2m : endsWith .fbaDealloc2M 0x80200000 1 afterB1 [0, 512, 0, 0, 0x0A] = true ∧
    leavesWords .fbaDealloc2M 0x80200000 1 afterB1 (1 :: List.replicate 15 0) = true := by decide +kernel
/-- V-D15. -/
theorem test_dealloc2m_misaligned : endsWith .fbaDealloc2M 0x80201000 1 afterB1 [0, 0, 0, 0, 0x41E] = true := by
  decide +kernel
/-- V-D18, V-D22. -/
theorem test_dealloc1g_errors : endsWith .fbaDealloc1G 0x80000000 1 fresh1 [0, 0, 0, 0, 0x61E] = true ∧
    endsWith .fbaDealloc1G 0x80000000 2 fresh1 [0, 0, 0, 0, 0xB1E] = true := by decide +kernel
/-- V-P4, V-P6, V-P9, V-P12. -/
theorem test_enc :
    endsWith .pteEnc 0x01 0xFFFFFFFFFFF State.reset [0x003FFFFFFFFFFC01, 2, 0, 0, 0x02] = true ∧
    endsWith .pteEnc 0x0F 0x1FF State.reset [0x7FC0F, 1, 0, 0, 0x02] = true ∧
    endsWith .pteEnc 0x11 0x80002 State.reset [0x20000811, 2, 0, 0, 0x02] = true ∧
    endsWith .pteEnc 0x100 0 State.reset [0, 0, 0, 0, 0xC16] = true := by decide +kernel
/-- V-P14, V-P16, V-P18, V-P20. -/
theorem test_dec :
    endsWith .pteDec 0xFFFFFFFFFFFFFFFF 0 State.reset [0xFF, 0xFFFFFFFFFFF, 1, 0xFFC0000000000300, 0x02] = true ∧
    endsWith .pteDec 0x3E 0 State.reset [0x3E, 0, 0, 0, 0x02] = true ∧
    endsWith .pteDec 0x05 0 State.reset [0x05, 0, 1, 0, 0x02] = true ∧
    endsWith .pteDec 0x20001C07 0 State.reset [0x07, 0x80007, 1, 0, 0x02] = true := by decide +kernel
/-- Section 5.1. -/
theorem test_illegal : nextAnd (step (acceptCommand 0x41#64 fresh1)) (fun t => t.status.toWord == 0x81E#64) = true := by
  decide +kernel
/-- V-R1: a write to OPA while BUSY is dropped. -/
theorem test_dropped : nextAnd (step ((offered .fbaAlloc4K 1 0 fresh1).withAgenda [slotStore e1 0 0x08 5#64]))
    (fun t => t.opa == 1#64 && t.status.overrun) = true := by decide +kernel
/-- V-R4: reset leaves the arena. -/
theorem test_reset : nextAnd (step (afterB1.withAgenda [.reset]))
    (fun t => t.status.toWord == 0#64 && t.cfgBase == 0#64 && t.arenaByte 0x80000040 == 0xFF#8) = true := by decide +kernel
/-- Program 3: the host's store of a PTE, little-endian. -/
theorem test_pte_store :
    nextAnd (step (fresh1.withAgenda [.host 0 (pteStore 0x80001000 0 0x200004CF#64)]))
      (fun t => [0, 1, 2, 3, 4].map (fun i => t.arenaByte (0x80001000 + i)) == [0xCF#8, 0x04#8, 0#8, 0x20#8, 0#8]) = true := by
  decide +kernel
/-- How the host asks: the first instruction after reset (log 16). -/
theorem test_fetch_word : nextAnd (step (State.reset.withFetchWord 64 0x09))
    (fun t => t.cmd == 0x09#64 && t.status.toWord == 0x02#64) = true := by decide +kernel

/-! ## The assembler (30_encoding R89, R90) -/

theorem test_assemble_alloc : assembleLine "fba.alloc.2m 0x1_0 ; a comment".toList = .ok (some (.alloc .c2m 16)) := by
  decide +kernel
theorem test_assemble_leaf :
    assembleLine "pte.leaf 0x8000_1000, V|R|W|X|A|D".toList = .ok (some (.pteLeaf 0x80001000 0xCF)) := by decide +kernel
theorem test_assemble_refuses :
    assembleLine "pte.leaf 0x8000_1000, V|U".toList = .error .refused ∧
    assembleLine "fba.alloc.4k".toList = .error .operandCount ∧
    assembleLine "fba.alloc.8k 1".toList = .error .unknownMnemonic ∧
    assembleLine "fba.alloc.4k 12z".toList = .error .badNumber ∧
    assembleLine "pte.enc Q, 0".toList = .error .badFlags ∧ assembleLine "  ; nothing".toList = .ok none := by
  decide +kernel

/-! ## Witnesses: for each statement of Obligations.lean with hypotheses, a state that meets them, clause by clause -/

/-- An ALLOC.4K in flight on fresh E2. -/
def inFlight : State := offered .fbaAlloc4K 1 0 fresh2

theorem witness_IllegalWordAcceptedThenFails :
    let s := fresh2.withAgenda [.host 0 (.regWrite fresh2.params.mmioBase 8 0x40#64), .engine]
    s.status.busy = false ∧ s.portTaken 0 = false ∧ 0x40#64 ∉ legalWords := by decide +kernel
theorem witness_ReservedSpaceIsIllegal :
    0x32#64 ∉ legalWords ∧ (acceptCommand 0x32#64 fresh2).cmd = 0x32#64 ∧
    (acceptCommand 0x32#64 fresh2).status.busy = true ∧ (acceptCommand 0x32#64 fresh2).agenda = [] := by decide +kernel
theorem witness_StepPerformsDecodedCommand :
    (fresh2.status.busy = false ∧ fresh2.agenda = []) ∧
    (fresh2.withAgenda [.engine, .reset]).agenda = .engine :: [.reset] ∧
    (inFlight.status.busy = true ∧ decode inFlight.cmd = .ok .fbaAlloc4K ∧ inFlight.agenda = []) ∧
    (inFlight.withAgenda [.engine]).agenda = .engine :: [] ∧
    decode (acceptCommand 0x32#64 fresh2).cmd = .error .reservedSizeClass ∧
    (∃ t, exec .fbaAlloc4K inFlight = .next t) := by
  refine ⟨by decide +kernel, rfl, by decide +kernel, rfl, by decide, ?_⟩
  exact (of_nextAnd (p := fun _ => true) (by decide +kernel)).imp fun _ h => h.1
/-- Offering a command keeps the invariant. -/
theorem inv_offered (i : Instr) (a b : Nat) {s : State} (h : Inv s) : Inv (offered i a b s) :=
  ⟨h.1, h.2.1, ⟨(fun _ => ⟨rfl, rfl⟩), (fun _ => rfl), (fun h => by cases h), (fun h => by cases h)⟩,
    h.2.2.2.1, h.2.2.2.2.1, (fun h => by cases h)⟩
theorem inv_fresh2 : Inv fresh2 :=
  ⟨by decide, by decide +kernel, by decide +kernel, by decide +kernel, by decide +kernel, by decide +kernel⟩
theorem inv_fresh1 : Inv fresh1 :=
  ⟨by decide, by decide +kernel, by decide +kernel, by decide +kernel, by decide +kernel, by decide +kernel⟩
theorem inv_afterB1 : Inv afterB1 :=
  ⟨by decide, by decide +kernel, by decide +kernel, by decide +kernel, by decide +kernel, by decide +kernel⟩
theorem inv_reset2 : Inv (State.resetWith e2) :=
  ⟨by decide, by decide +kernel, by decide +kernel, by decide +kernel, by decide +kernel, by decide +kernel⟩
theorem inv_inFlight : Inv inFlight := inv_offered _ _ _ inv_fresh2
theorem witness_EngineNeverFaults : Inv inFlight ∧ inFlight.status.busy = true ∧ inFlight.agenda = [] :=
  ⟨inv_inFlight, rfl, rfl⟩
theorem witness_PolledCommandIsPerformed :
    Inv (inFlight.withAgenda (List.replicate 2 (statusPoll e2 0))) ∧ inFlight.status.busy = true ∧ inFlight.params = e2 :=
  ⟨inv_inFlight, rfl, rfl⟩
theorem witness_EngineWritesOnlyItsRegion :
    ∃ t, Inv inFlight ∧ inFlight.status.busy = true ∧ inFlight.agenda = [] ∧ step inFlight = .next t := by
  obtain ⟨t, h, -⟩ := of_nextAnd (o := step inFlight) (p := fun _ => true) (by decide +kernel)
  exact ⟨t, witness_EngineNeverFaults.1, rfl, rfl, h⟩
/-- The bytes before and after the one word the ALLOC writes. -/
theorem witness_PerformWritesOnlyItsFootprint :
    ∃ t, inFlight.status.busy = true ∧ inFlight.agenda = [] ∧ step inFlight = .next t ∧
      inFlight.contended 0x0FFFFFFF = false ∧ inFlight.contended 0x10000008 = false ∧
      inFlight.contended 0x10000000 = true ∧ inFlight.contended 0x10000007 = true := by
  obtain ⟨t, -, h⟩ := witness_EngineWritesOnlyItsRegion
  exact ⟨t, rfl, rfl, h.2.2, by decide +kernel⟩
theorem witness_PteEncEffect :
    ((offered .pteEnc 0xFF 0xFFFFFFFFFFF fresh2).opaNat < 2 ^ 8 ∧ (offered .pteEnc 0xFF 0xFFFFFFFFFFF fresh2).opbNat < 2 ^ 44) ∧
    2 ^ 8 ≤ (offered .pteEnc 0x100 0 fresh2).opaNat ∧ 2 ^ 44 ≤ (offered .pteEnc 0 0x100000000000 fresh2).opbNat := by
  decide +kernel
theorem witness_PteCodecRoundTrip :
    (offered .pteEnc 0xFF 0xFFFFFFFFFFF fresh2).opaNat < 2 ^ 8 ∧ (offered .pteEnc 0xFF 0xFFFFFFFFFFF fresh2).opbNat < 2 ^ 44 := by
  decide +kernel
theorem witness_PteKindClassification : (0xF7#64).extractLsb' 0 4 = (0x07#64 : Word).extractLsb' 0 4 := by decide
theorem witness_CodecDependsOnOperandsOnly :
    (offered .pteEnc 7 4 fresh2).opa = (offered .pteEnc 7 4 State.reset).opa ∧
    (offered .pteEnc 7 4 fresh2).opb = (offered .pteEnc 7 4 State.reset).opb ∧
    (offered .pteDec 7 4 fresh2).opa = (offered .pteDec 7 4 State.reset).opa := by decide +kernel

/-- The checks of INIT, as one test: whether it goes past each of them, in their order. -/
def passesInit (a b : Nat) (s : State) : List Bool :=
  let t := offered .fbaInit a b s
  [t.opaNat + 4096 ≤ t.opbNat, t.opaNat % 4096 = 0, t.params.arenaBase ≤ t.opaNat, t.opbNat ≤ t.arenaEnd]
/-- Each clause of InitEffect at the value where it begins. -/
theorem witness_InitEffect :
    fresh2.status.initDone = true ∧ (State.resetWith e2).status.initDone = false ∧
    passesInit 0x10000000 0x10000FFF (State.resetWith e2) = [false, true, true, true] ∧
    passesInit 0x10000001 0x10001001 (State.resetWith e2) = [true, false, true, true] ∧
    passesInit 0x0FFFF000 0x10000000 (State.resetWith e2) = [true, true, false, true] ∧
    passesInit 0x10000000 0x10100001 (State.resetWith e2) = [true, true, true, false] ∧
    passesInit 0x10000000 0x10100000 (State.resetWith e2) = [true, true, true, true] := by decide +kernel
/-- The whole arena of E2 has F = 256, W = 4, B = 1; a host write one byte past the words is no race. -/
theorem witness_InitEffect_success : 256 = (0x10100000 - 0x10000000) / 4096 ∧ 4 = (256 + 63) / 64 ∧
    1 = (8 * 4 + 4095) / 4096 ∧ ∀ a ∈ [0x0FFFFFFF, 0x10000020], a < 0x10000000 ∨ 0x10000000 + 8 * 4 ≤ a := by decide +kernel
theorem witness_CfgChangesOnlyAtFirstInit :
    ∃ t, step (offered .fbaInit 0x10000000 0x10046000 (State.resetWith e2)) = .next t ∧
      (offered .fbaInit 0x10000000 0x10046000 (State.resetWith e2)).agenda.head? ≠ some .reset := by
  obtain ⟨t, h, -⟩ := of_nextAnd (o := step (offered .fbaInit 0x10000000 0x10046000 (State.resetWith e2)))
    (p := fun _ => true) (by decide +kernel)
  exact ⟨t, h, by decide +kernel⟩
theorem witness_FreecountTestIsRedundant : 63 + 1 ≤ 64 ∧ windowFree 0x7FFFFFFFFFFFFFFF#64 1 63 = true := by decide +kernel

/-- No 2MiB group, no run of 65 frames and no 1GiB group fits in fresh E2. -/
theorem noFit_fresh2 : NoFit fresh2 .c4k 65 ∧ NoFit fresh2 .c2m 1 ∧ NoFit fresh2 .c1g 2 := by
  refine ⟨fun k h _ => ?_, fun k h _ => ?_, fun k h _ => ?_⟩
  · have hk : k + 65 ≤ 128 ∧ k % 64 = 0 := by
      have hw : fresh2.numWords = 2 := by decide +kernel
      have h64 : ¬ (65 : Nat) ≤ 64 := by decide
      simp only [Candidate, hw, h64, if_false] at h; omega
    have h0 : k = 0 := by omega
    subst h0
    have hf : ¬ FreeRun fresh2 0 (65 * framesPer .c4k) := by decide +kernel
    contradiction
  · have hw : fresh2.numWords = 2 := by decide +kernel
    simp only [Candidate, hw] at h; omega
  · have hw : fresh2.numWords = 2 := by decide +kernel
    simp only [Candidate, hw] at h; omega

theorem witness_AllocEffect :
    Inv (State.resetWith e2) ∧ (State.resetWith e2).status.initDone = false ∧
    Inv (offered .fbaAlloc4K 0 0 fresh2) ∧ (offered .fbaAlloc4K 0 0 fresh2).status.initDone = true ∧
    (offered .fbaAlloc4K 0 0 fresh2).opaNat = 0 ∧ (offered .fbaAlloc1G 1 0 fresh2).opaNat = 1 ∧
    CountServed .c4k (offered .fbaAlloc4K 1 0 fresh2).opaNat ∧ CountServed .c1g (offered .fbaAlloc1G 2 0 fresh2).opaNat :=
  ⟨inv_reset2, rfl, inv_offered _ _ _ inv_fresh2, rfl, by decide, by decide, by decide, by decide⟩
/-- The bits of a state do not depend on the command offered in it. -/
theorem offered_bit (i : Instr) (a b : Nat) (s : State) (j : Nat) : (offered i a b s).bit j = s.bit j := by
  rw [bit_eq_byte, bit_eq_byte]; rfl
theorem witness_AllocEffect_exhausted : NoFit (offered .fbaAlloc4K 65 0 fresh2) .c4k 65 := by
  intro k hc hf
  exact noFit_fresh2.1 k hc fun j h1 h2 => by rw [← offered_bit .fbaAlloc4K 65 0]; exact hf j h1 h2
theorem witness_AllocEffect_fits : FirstFit (offered .fbaAlloc4K 63 0 fresh2) .c4k 63 1 ∧
    FirstFit (offered .fbaAlloc2M 1 0 fresh1) .c2m 1 512 := by
  unfold FirstFit
  refine ⟨⟨?_, ?_, ?_⟩, ?_, ?_, ?_⟩ <;> decide +kernel
/-- A ZALLOC in flight whose frame, from its first byte 0x10001000 to its last, is raced or not. -/
def zallocRaced (l : List Nat) : State := { offered .fbaZalloc4K 1 0 fresh2 with raced := l }
theorem inv_zallocRaced (l : List Nat) : Inv (zallocRaced l) :=
  have h := inv_offered .fbaZalloc4K 1 0 inv_fresh2
  ⟨h.1, h.2.1, h.2.2.1, h.2.2.2.1, h.2.2.2.2.1, (fun hb => by cases hb)⟩
/-- The bits do not depend on the races. -/
theorem zallocRaced_bit (l : List Nat) (j : Nat) : (zallocRaced l).bit j = fresh2.bit j := by
  rw [bit_eq_byte, bit_eq_byte]; rfl
theorem fits_zallocRaced (l : List Nat) : FirstFit (zallocRaced l) .c4k 1 1 := by
  have hw : (zallocRaced l).numWords = 2 := (by decide : fresh2.numWords = 2)
  refine ⟨?_, fun j h1 h2 => ?_, fun k h1 _ hf => ?_⟩
  · simp only [Candidate, hw]; decide
  · have hj : j = 1 := by simp only [framesPer] at h1; omega
    rw [zallocRaced_bit, hj]; decide +kernel
  · have hk : k = 0 := by omega
    subst hk
    have h := hf 0 (by decide) (by decide)
    rw [zallocRaced_bit] at h
    exact absurd h (by decide +kernel)
/-- Host writes just outside the filled frame are no race. -/
theorem witness_ZallocEffect :
    Inv (zallocRaced [0x10000FFF, 0x10002000]) ∧ (zallocRaced [0x10000FFF, 0x10002000]).status.initDone = true ∧
    CountServed .c4k (zallocRaced [0x10000FFF, 0x10002000]).opaNat ∧
    FirstFit (zallocRaced [0x10000FFF, 0x10002000]) .c4k (zallocRaced [0x10000FFF, 0x10002000]).opaNat 1 ∧
    (∀ a ∈ [0x10000FFF, 0x10002000], a < 0x10001000 ∨ 0x10002000 ≤ a) ∧
    (zallocRaced [0x10000FFF, 0x10002000]).base + 4096 * 1 = 0x10001000 :=
  ⟨inv_zallocRaced _, rfl, by decide, fits_zallocRaced _, by decide, by decide⟩
theorem witness_ZallocEffect_stops : (offered .fbaZalloc2M 0 0 fresh2).opaNat = 0 ∧
    (offered .fbaZalloc1G 1 0 fresh2).opaNat = 1 ∧ NoFit (offered .fbaZalloc2M 1 0 fresh2) .c2m 1 := by
  refine ⟨by decide, by decide, fun k hc hf => ?_⟩
  exact noFit_fresh2.2.1 k hc fun j h1 h2 => by rw [← offered_bit .fbaZalloc2M 1 0]; exact hf j h1 h2
/-- A filled byte that is raced and one that is not; an INIT raced on its bitmap. -/
theorem witness_RacedBytesEndEitherWay :
    Inv (zallocRaced [0x10001000]) ∧ FirstFit (zallocRaced [0x10001000]) .c4k 1 1 ∧
    CountServed .c4k (zallocRaced [0x10001000]).opaNat ∧ (zallocRaced [0x10001000]).status.initDone = true ∧
    0x10001001 ∉ (zallocRaced [0x10001000]).raced ∧
    passesInit 0x10000000 0x10046000 { State.resetWith e2 with raced := [0x10000000] } = [true, true, true, true] :=
  ⟨inv_zallocRaced _, fits_zallocRaced _, by decide, rfl, by decide, by decide +kernel⟩
theorem witness_AllocatedRunIsAlignedAndInRegion :
    ∃ t, Inv (offered .fbaAlloc2M 1 0 fresh1) ∧ exec .fbaAlloc2M (offered .fbaAlloc2M 1 0 fresh1) = .next t ∧
      t.status.err = false := by
  obtain ⟨t, h, hp⟩ := of_nextAnd (o := exec .fbaAlloc2M (offered .fbaAlloc2M 1 0 fresh1)) (p := fun t => !t.status.err)
    (by decide +kernel)
  exact ⟨t, inv_offered _ _ _ inv_fresh1, h, by simpa using hp⟩
/-- A 2MiB allocation, then a zeroed one of 4KiB, back to back. -/
theorem witness_AllocationsDoNotOverlap :
    ∃ t u, Inv (offered .fbaAlloc2M 1 0 fresh1) ∧ exec .fbaAlloc2M (offered .fbaAlloc2M 1 0 fresh1) = .next t ∧
      t.status.err = false ∧ exec .fbaZalloc4K { t with opa := 3#64 } = .next u ∧ u.status.err = false := by
  obtain ⟨t, h, hp⟩ := of_nextAnd (o := exec .fbaAlloc2M (offered .fbaAlloc2M 1 0 fresh1))
    (p := fun t => !t.status.err && nextAnd (exec .fbaZalloc4K { t with opa := 3#64 }) (fun u => !u.status.err))
    (by decide +kernel)
  rw [Bool.and_eq_true] at hp
  obtain ⟨u, h', hp'⟩ := of_nextAnd hp.2
  exact ⟨t, u, inv_offered _ _ _ inv_fresh1, h, by simpa using hp.1, h', by simpa using hp'⟩
/-- Frame 1 used and frame 2 free, as after V-A1. -/
def afterA1 : State := { fresh2 with mem := (0x10000000, 3#8) :: fresh2.mem.drop 1 }
theorem inv_afterA1 : Inv afterA1 :=
  ⟨by decide, by decide +kernel, by decide +kernel, by decide +kernel, by decide +kernel, by decide +kernel⟩
/-- The checks of DEALLOC in their order: whether `address, count` of a class goes past each. -/
def passesFree (c : SizeClass) (a b : Nat) (s : State) : List Bool :=
  let t := offered c.deallocInstr a b s
  let k := (t.opaNat - t.base) / 4096
  [CountServed c t.opbNat, t.opaNat % bytesPer c = 0, t.base ≤ t.opaNat, t.bmFrames ≤ k,
    k + t.opbNat * framesPer c ≤ t.numFrames, UsedRun t k (t.opbNat * framesPer c)]
/-- Each clause of DeallocEffect, at the frames where the clauses meet: 0, 1, 2, 69 and 70. -/
theorem witness_DeallocEffect :
    passesFree .c4k 0x10001000 1 afterA1 = [true, true, true, true, true, true] ∧
    passesFree .c4k 0x10001000 2 afterA1 = [true, true, true, true, true, false] ∧
    passesFree .c4k 0x10045000 1 afterA1 = [true, true, true, true, true, false] ∧
    passesFree .c4k 0x10046000 1 afterA1 = [true, true, true, true, false, true] ∧
    passesFree .c4k 0x10000000 1 afterA1 = [true, true, true, false, true, true] ∧
    passesFree .c4k 0x0FFFF000 1 afterA1 = [true, true, false, false, true, true] ∧
    passesFree .c4k 0x10001001 1 afterA1 = [true, false, true, true, true, true] ∧
    (offered .fbaDealloc4K 0x10001000 0 afterA1).opbNat = 0 ∧ (offered .fbaDealloc1G 0x40000000 1 afterA1).opbNat = 1 ∧
    passesFree .c2m 0x80200000 1 afterB1 = [true, true, true, true, true, true] := by decide +kernel
theorem witness_DeallocEffect_inv : Inv (offered .fbaDealloc4K 0x10001000 1 afterA1) ∧
    Inv (offered .fbaDealloc2M 0x80200000 1 afterB1) ∧ Inv (offered .fbaDealloc4K 0 0 (State.resetWith e2)) :=
  ⟨inv_offered _ _ _ inv_afterA1, inv_offered _ _ _ inv_afterB1, inv_offered _ _ _ inv_reset2⟩
theorem witness_AllocThenFreeRestoresThenDoubleFree :
    ∃ t, Inv (offered .fbaZalloc2M 1 0 fresh1) ∧ exec .fbaZalloc2M (offered .fbaZalloc2M 1 0 fresh1) = .next t ∧
      t.status.err = false := by
  obtain ⟨t, h, hp⟩ := of_nextAnd (o := exec .fbaZalloc2M (offered .fbaZalloc2M 1 0 fresh1)) (p := fun t => !t.status.err)
    (by decide +kernel)
  exact ⟨t, inv_offered _ _ _ inv_fresh1, h, by simpa using hp⟩

/-! ### A 1GiB request that completes, and a 1GiB range that can be freed -/

/-- The arena of configuration E3 and its fresh state: F = 786432, W = 12288, B = 24. -/
def e3 : Config.Params := { arenaBase := 0x40000000, arenaLen := 0xC0000000, mmioBase := 0 }
def fresh3 : State :=
  { State.resetWith e3 with
    status := afterInit, cfgBase := 0x40000000#64, cfgNFrames := 786432#64, cfgNWords := 12288#64
    cfgBmFrames := 24#64, mem := [(0x40000000, 0xFF#8), (0x40000001, 0xFF#8), (0x40000002, 0xFF#8)]
    unspecified := [{ lo := 0x40018000, hi := 0x100000000, tag := 0 }] }
theorem bit_fresh3 (j : Nat) (h : j < 786432) : fresh3.bit j = decide (j < 24) := by
  rw [bit_eq_byte]
  have hb : fresh3.base = 0x40000000 := by decide
  rw [hb]
  by_cases h24 : j < 24
  · have hf : ∀ i < 24, (fresh3.arenaByte (0x40000000 + i / 8)).getLsbD (i % 8) = true := by decide +kernel
    rw [hf j h24]; simp [h24]
  · have h0 : fresh3.arenaByte (0x40000000 + j / 8) = 0#8 := by
      have hs : (Span.has { lo := 0x40018000, hi := 0x100000000, tag := 0 } (0x40000000 + j / 8)) = false := by
        simp only [Span.has, decide_eq_false_iff_not]; omega
      have h1 : ¬ 0x40000000 = 0x40000000 + j / 8 := by omega
      have h2 : ¬ 0x40000001 = 0x40000000 + j / 8 := by omega
      have h3 : ¬ 0x40000002 = 0x40000000 + j / 8 := by omega
      simp only [State.arenaByte, fresh3, Memory.find, h1, h2, h3, if_false, unlistedByte, List.find?_cons, hs,
        List.find?_nil]
    rw [h0]; simp [h24]
theorem inv_fresh3 : Inv fresh3 := by
  refine ⟨by decide, by decide +kernel, by decide +kernel, by decide +kernel, fun _ => ⟨fun j hj hor => ?_, ?_⟩, by decide +kernel⟩
  · have hw : fresh3.numWords = 12288 := by decide
    have hf : fresh3.numFrames = 786432 := by decide
    have hm : fresh3.bmFrames = 24 := by decide
    rw [bit_fresh3 j (by omega)]; simp; omega
  · decide +kernel
/-- V-C2, V-Z5: the group from word 4096 on. -/
theorem witness_AllocEffect_1G : Inv (offered .fbaAlloc1G 2 0 fresh3) ∧
    CountServed .c1g (offered .fbaAlloc1G 2 0 fresh3).opaNat ∧ FirstFit (offered .fbaAlloc1G 2 0 fresh3) .c1g 2 262144 := by
  have hw : (offered .fbaAlloc1G 2 0 fresh3).numWords = 12288 := by decide
  have hb : (offered .fbaAlloc1G 2 0 fresh3).base = 0x40000000 := by decide
  refine ⟨inv_offered _ _ _ inv_fresh3, by decide, ?_, fun j h1 h2 => ?_, fun k h1 hc hf => ?_⟩
  · exact ⟨by decide, by rw [hw], by rw [hb]⟩
  · simp only [framesPer] at h1
    rw [offered_bit, bit_fresh3 j (by omega), decide_eq_false_iff_not]; omega
  · simp only [Candidate, hw, hb] at hc
    have hk : k = 0 := by omega
    subst hk
    have := hf 0 (by decide) (by decide)
    rw [offered_bit, bit_fresh3 0 (by decide)] at this
    simp at this

/-- What fits does not depend on the command offered. -/
theorem fits_offered {i : Instr} {a b : Nat} {s : State} {c : SizeClass} {n k : Nat} (i' : Instr) (a' b' : Nat)
    (h : FirstFit (offered i a b s) c n k) : FirstFit (offered i' a' b' s) c n k := by
  have hbit : ∀ j, (offered i' a' b' s).bit j = (offered i a b s).bit j := fun j => by rw [offered_bit, offered_bit]
  refine ⟨h.1, fun j h1 h2 => ?_, fun k' hk hc hf => h.2.2 k' hk hc fun j h1 h2 => ?_⟩
  · rw [hbit]; exact h.2.1 j h1 h2
  · rw [← hbit]; exact hf j h1 h2
/-- V-Z3, V-Z5: the same in ZALLOC, with nothing raced. -/
theorem witness_ZallocEffect_2M_1G :
    FirstFit (offered .fbaZalloc2M 1 0 fresh1) .c2m 1 512 ∧ FirstFit (offered .fbaZalloc1G 2 0 fresh3) .c1g 2 262144 ∧
    (offered .fbaZalloc1G 2 0 fresh3).raced = [] :=
  ⟨fits_offered .fbaZalloc2M 1 0 witness_AllocEffect_fits.2, fits_offered .fbaZalloc1G 2 0 witness_AllocEffect_1G.2.2, rfl⟩

/-- E3 with bytes written from word 4096 on. -/
def filled (bs : List Byte) : State := fresh3.writeBytes 0x40008000 bs
theorem bit_filled {bs : List Byte} (hl : bs.length = 65536) (hv : ∀ i (h : i < bs.length), bs[i] = 0xFF#8) (j : Nat)
    (h : j < 786432) : (filled bs).bit j = decide (j < 24 ∨ 262144 ≤ j) := by
  have hb3 : fresh3.base = 0x40000000 := by decide
  have hb : (filled bs).base = 0x40000000 := hb3
  rw [bit_eq_byte, hb]
  unfold filled
  by_cases h1 : 262144 ≤ j
  · have hin := arenaByte_writeBytes_inside fresh3 0x40008000 bs (j / 8 - 32768) (by omega)
    rw [show 0x40008000 + (j / 8 - 32768) = 0x40000000 + j / 8 by omega, hv] at hin
    have hff : ∀ i < 8, (0xFF#8).getLsbD i = true := by decide
    rw [hin, hff _ (by omega)]; simp [h1]
  · have hout := arenaByte_writeBytes_outside fresh3 0x40008000 bs (0x40000000 + j / 8) (by left; omega)
    have h3 := bit_fresh3 j h
    rw [bit_eq_byte, hb3] at h3
    rw [hout, h3]; simp [h1]
theorem inv_filled {bs : List Byte} (hl : bs.length = 65536) (hv : ∀ i (h : i < bs.length), bs[i] = 0xFF#8) :
    Inv (filled bs) := by
  have hin : fresh3.inArena 0x40008000 (0x40008000 + bs.length) = true := by rw [hl]; decide
  have hcut : Span.cut fresh3.unspecified 0x40008000 (0x40008000 + 65536) = fresh3.unspecified := by decide +kernel
  refine ⟨inv_fresh3.1, memoryOk_writeBytes inv_fresh3.2.1 _ _ hin, inv_fresh3.2.2.1, inv_fresh3.2.2.2.1,
    fun _ => ⟨fun j hj hor => ?_, ?_⟩, fun _ => rfl⟩
  · have hw : (filled bs).numWords = 12288 := (by decide : fresh3.numWords = 12288)
    have hf : (filled bs).numFrames = 786432 := (by decide : fresh3.numFrames = 786432)
    have hm : (filled bs).bmFrames = 24 := (by decide : fresh3.bmFrames = 24)
    rw [bit_filled hl hv j (by omega), decide_eq_true_eq]; omega
  · have hu : (filled bs).unspecified = fresh3.unspecified := by
      unfold filled; rw [writeBytes_unspecified, hl, hcut]
    rw [hu]
    exact (inv_fresh3.2.2.2.2.1 rfl).2
/-- V-D19: a 1GiB range of two frames, all used, with the invariant. -/
theorem freeable_filled {bs : List Byte} (hl : bs.length = 65536) (hv : ∀ i (h : i < bs.length), bs[i] = 0xFF#8) :
    Inv (offered .fbaDealloc1G 0x80000000 2 (filled bs)) ∧
    UsedRun (offered .fbaDealloc1G 0x80000000 2 (filled bs)) 262144 524288 := by
  refine ⟨inv_offered _ _ _ (inv_filled hl hv), fun j h1 h2 => ?_⟩
  rw [offered_bit, bit_filled hl hv j (by omega), decide_eq_true_eq]; omega
theorem witness_DeallocEffect_1G :
    (Inv (offered .fbaDealloc1G 0x80000000 2 (filled (List.replicate 65536 0xFF#8))) ∧
      UsedRun (offered .fbaDealloc1G 0x80000000 2 (filled (List.replicate 65536 0xFF#8))) 262144 524288) ∧
    CountServed .c1g 2 ∧ 0x80000000 % bytesPer .c1g = 0 ∧ fresh3.base ≤ 0x80000000 ∧
    (0x80000000 - fresh3.base) / 4096 = 262144 ∧ fresh3.bmFrames ≤ 262144 ∧ 262144 + 524288 ≤ fresh3.numFrames :=
  ⟨freeable_filled List.length_replicate (fun _ _ => List.getElem_replicate _), by decide, by decide, by decide, by decide,
    by decide, by decide⟩

/-! ### Errors -/

theorem witness_ErrorChangesNothingElse :
    (∃ t, exec .fbaAlloc4K (offered .fbaAlloc4K 65 0 fresh2) = .next t ∧ t.status.err = true) ∧
    ∃ t, exec .fbaAlloc4K (offered .fbaAlloc4K 63 0 fresh2) = .next t ∧ t.status.err = false := by
  constructor
  · exact (of_nextAnd (p := fun t => t.status.err) (by decide +kernel)).imp fun _ h => ⟨h.1, h.2⟩
  · exact (of_nextAnd (p := fun t => !t.status.err) (by decide +kernel)).imp fun _ h => ⟨h.1, by simpa using h.2⟩
/-- The step of a command that fails. -/
theorem witness_ErrorChangesNothingElse_step :
    ∃ t, (offered .fbaAlloc4K 0 0 fresh2).status.busy = true ∧ (offered .fbaAlloc4K 0 0 fresh2).agenda = [] ∧
      step (offered .fbaAlloc4K 0 0 fresh2) = .next t ∧ t.status.err = true :=
  (of_nextAnd (p := fun t => t.status.err) (by decide +kernel)).imp fun _ h => ⟨rfl, rfl, h.1, h.2⟩
theorem witness_SetFramesIsItsLoop : 0x0FFFFFFF < fresh2.base := by decide
theorem witness_ErrorMatrix :
    (∃ t, exec .fbaInit (offered .fbaInit 0 4096 fresh2) = .next t ∧ t.status.err = true) ∧
    let s := acceptCommand 0x40#64 fresh2
    s.status.busy = true ∧ s.agenda = [] ∧ s.cmd ∉ legalWords ∧ ∃ t, step s = .next t := by
  refine ⟨?_, rfl, rfl, by decide +kernel, ?_⟩
  · exact (of_nextAnd (p := fun t => t.status.err) (by decide +kernel)).imp fun _ h => ⟨h.1, h.2⟩
  · exact (of_nextAnd (p := fun _ => true) (by decide +kernel)).imp fun _ h => h.1
/-- FATAL, OVERRUN and INIT_DONE all 1. -/
def sticky : State := { fresh2 with status := { afterInit with fatal := true, overrun := true } }
theorem witness_StickyFlags :
    (∃ t, step (sticky.withAgenda [.engine]) = .next t ∧ sticky.status.fatal = true ∧ sticky.status.overrun = true ∧
      sticky.status.initDone = true) ∧
    (sticky.withAgenda [.reset, .engine]).agenda = .reset :: [.engine] ∧
    sticky.status.busy = false ∧ sticky.portTaken 3 = false ∧
    (sticky.withAgenda [.host 3 (.regWrite sticky.params.mmioBase 8 0#64)]).agenda =
      .host 3 (.regWrite sticky.params.mmioBase 8 0#64) :: [] := by
  refine ⟨?_, rfl, rfl, rfl, rfl⟩
  exact (of_nextAnd (p := fun _ => true) (by decide +kernel)).imp fun _ h => ⟨h.1, rfl, rfl, rfl⟩
theorem witness_IgnoredOperandHasNoEffect :
    (∃ t, exec .pteDec (offered .pteDec 7 9 fresh2) = .next t) ∧
    (∃ t, exec .fbaZalloc4K (offered .fbaZalloc4K 1 9 fresh2) = .next t) ∧
    SizeClass.allocInstr .c2m = .fbaAlloc2M ∧ SizeClass.zallocInstr .c4k = .fbaZalloc4K := by
  refine ⟨?_, ?_, rfl, rfl⟩ <;>
    exact (of_nextAnd (p := fun _ => true) (by decide +kernel)).imp fun _ h => h.1

/-! ### The window -/

/-- The first slot, the last register and the last reserved slot. -/
theorem witness_RegisterReadReturnsValue :
    let values := fun s : State => [s.cmd, s.opa, s.opb, s.status.toWord, s.res0, s.res1, s.res2, s.res3, s.cfgBase,
      s.cfgNFrames, s.cfgNWords, s.cfgBmFrames, 1#64, 0#64, 0#64, 0#64]
    (values fresh2)[0]? = some 0#64 ∧ (values fresh2)[11]? = some 1#64 ∧ (values fresh2)[15]? = some 0#64 ∧
    (values fresh2)[16]? = none ∧
    (fresh2.withAgenda [.host 0 (.regRead (e2.mmioBase + 8 * 15) 8)]).agenda =
      .host 0 (.regRead (fresh2.params.mmioBase + 8 * 15) 8) :: [] := by decide +kernel
theorem witness_CmdWriteAcceptedOrDropped :
    (inFlight.withAgenda [.host 1 (.regWrite e2.mmioBase 8 1#64)]).agenda =
      .host 1 (.regWrite inFlight.params.mmioBase 8 1#64) :: [] ∧ inFlight.status.busy = true ∧
    (fresh2.withAgenda [.host 1 (.regWrite e2.mmioBase 8 1#64)]).agenda =
      .host 1 (.regWrite fresh2.params.mmioBase 8 1#64) :: [] ∧ fresh2.status.busy = false ∧
    fresh2.portTaken 1 = false := by decide +kernel
theorem witness_OperandWriteTakenOrDropped :
    (inFlight.withAgenda [slotStore e2 1 0x08 1#64]).agenda =
      .host 1 (.regWrite (inFlight.params.mmioBase + 0x08) 8 1#64) :: [] ∧ inFlight.status.busy = true ∧
    (fresh2.withAgenda [slotStore e2 1 0x10 1#64]).agenda =
      .host 1 (.regWrite (fresh2.params.mmioBase + 0x10) 8 1#64) :: [] ∧ fresh2.status.busy = false ∧
    fresh2.portTaken 1 = false := by decide +kernel
theorem witness_ReadOnlyWritesIgnored : ∀ index ∈ [3, 15], 3 ≤ index ∧ index ≤ 15 ∧
    (fresh2.withAgenda [slotStore e2 1 (8 * index) 1#64]).agenda =
      .host 1 (.regWrite (fresh2.params.mmioBase + 8 * index) 8 1#64) :: [] := by decide +kernel
/-- A narrow access, the byte before the window, the byte after it, an unaligned offset. -/
theorem witness_OtherWindowAccessRefused :
    (4 ≠ 8) ∧ e2.mmioBase - 8 < fresh2.params.mmioBase ∧ fresh2.params.mmioBase + 128 ≤ e2.mmioBase + 128 ∧
    (e2.mmioBase + 1 - fresh2.params.mmioBase) % 8 ≠ 0 ∧
    (fresh2.withAgenda [.host 0 (.regRead (e2.mmioBase + 128) 8)]).agenda =
      .host 0 (.regRead (fresh2.params.mmioBase + 128) 8) :: [] := by decide +kernel
theorem witness_OnlyCmdWriteStartsCommand :
    ∃ t, step (fresh2.withAgenda [slotStore e2 1 0 0#64]) = .next t ∧ fresh2.status.busy = false ∧
      t.status.busy = true :=
  (of_nextAnd (p := fun t => t.status.busy) (by decide +kernel)).imp fun _ h => ⟨h.1, rfl, h.2⟩
/-- A write that changes OPB, the last of the three. -/
theorem witness_OnlyHostWritesInputs :
    ∃ t, step (fresh2.withAgenda [slotStore e2 1 0x10 5#64]) = .next t ∧
      (fresh2.withAgenda [slotStore e2 1 0x10 5#64]).agenda.head? ≠ some .reset ∧ t.opb ≠ fresh2.opb := by
  obtain ⟨t, h, hp⟩ := of_nextAnd (o := step (fresh2.withAgenda [slotStore e2 1 0x10 5#64]))
    (p := fun t => t.opb != fresh2.opb) (by decide +kernel)
  exact ⟨t, h, by decide +kernel, by simpa using hp⟩
theorem witness_ResultsChangeOnlyAtPerform :
    ∃ t, step inFlight = .next t ∧ inFlight.agenda.head? ≠ some .reset ∧ t.res0 ≠ inFlight.res0 := by
  obtain ⟨t, h, hp⟩ := of_nextAnd (o := step inFlight) (p := fun t => t.res0 != inFlight.res0) (by decide +kernel)
  exact ⟨t, h, by decide +kernel, by simpa using hp⟩
/-- Agent 0 has written OPA; agent 1's CMD write and OPB write, the ends of the range; then agent 0's own completion. -/
theorem witness_CommandPortMutex :
    let s := fresh2.holdPort 0 false
    s.status.busy = false ∧ s.portUser = some { agent := 0, accepted := false } ∧ 0 ≠ 1 ∧
    (∀ index ∈ [0, 2], index ≤ 2 ∧ (s.withAgenda [slotStore e2 1 (8 * index) 1#64]).agenda =
      .host 1 (.regWrite (s.params.mmioBase + 8 * index) 8 1#64) :: []) ∧
    fresh2.status.done = true ∧ (fresh2.holdPort 0 true).portUser = some { agent := 0, accepted := true } ∧
    (fresh2.withAgenda [statusPoll e2 0]).agenda = .host 0 (.regRead (fresh2.params.mmioBase + 0x18) 8) :: [] := by
  decide +kernel
theorem witness_RequesterIdentityIgnored :
    (∃ t, step (fresh2.withAgenda [slotStore e2 0 0 1#64]) = .next t) ∧
    ∃ u, step (fresh2.withAgenda [slotStore e2 1 0 1#64]) = .next u := by
  constructor <;> exact (of_nextAnd (p := fun _ => true) (by decide +kernel)).imp fun _ h => h.1
theorem witness_HostAccessWhileBusyKeepsCommand :
    ∃ t, inFlight.status.busy = true ∧ step (inFlight.withAgenda [slotStore e2 0 0 1#64]) = .next t := by
  exact (of_nextAnd (p := fun _ => true) (by decide +kernel)).imp fun _ h => ⟨rfl, h.1⟩

/-! ### The arena -/

/-- The first and the last byte of the two bitmap words of E2. -/
theorem witness_BitmapWriteRefused : ∀ addr ∈ [0x10000000, 0x1000000F],
    fresh2.status.initDone = true ∧ fresh2.params.arenaBase ≤ addr ∧ addr + [7#8].length ≤ fresh2.arenaEnd ∧
    fresh2.base ≤ addr ∧ addr < fresh2.base + 8 * fresh2.numWords ∧
    (fresh2.withAgenda [.host 0 (.arenaWrite addr [7#8])]).agenda = .host 0 (.arenaWrite addr [7#8]) :: [] := by
  decide +kernel
/-- The byte right after the words, and the last byte of the arena, with a command in flight. -/
theorem witness_HostArenaWriteStores : inFlight.status.busy = true ∧ ∀ addr ∈ [0x10000010, 0x100FFFFF],
    inFlight.params.arenaBase ≤ addr ∧ addr + [7#8].length ≤ inFlight.arenaEnd ∧
    inFlight.base + 8 * inFlight.numWords ≤ addr := by decide +kernel
/-- Two bytes: the last that the ALLOC in flight writes and the first that it does not. -/
theorem witness_HostArenaReadReturnsBytes : inFlight.params.arenaBase ≤ 0x10000007 ∧
    0x10000007 + 2 ≤ inFlight.arenaEnd ∧ inFlight.contended (0x10000007 + 0) = true ∧
    inFlight.contended (0x10000007 + 1) = false := by decide +kernel
theorem witness_HostAccessOutsideArenaFaults :
    0x0FFFFFFF < fresh2.params.arenaBase ∧ fresh2.arenaEnd < 0x100FFFFF + [1#8, 2#8].length ∧
    (fresh2.withAgenda [.host 0 (.arenaWrite 0x100FFFFF [1#8, 2#8])]).agenda =
      .host 0 (.arenaWrite 0x100FFFFF [1#8, 2#8]) :: [] := by decide +kernel
/-- Entry 511 of the last table frame of the arena, and entry 0 right after the bitmap words. -/
theorem witness_PteStoreReadsBack :
    fresh2.params.arenaBase ≤ 0x100FF000 ∧ 0x100FF000 + 8 * 511 + 8 ≤ fresh2.arenaEnd ∧
    fresh2.base + 8 * fresh2.numWords ≤ 0x10000010 + 8 * 0 ∧ fresh2.status.initDone = true ∧
    (fresh2.withAgenda [.host 0 (pteStore 0x100FF000 511 1#64)]).agenda =
      .host 0 (pteStore 0x100FF000 511 1#64) :: [] := by decide +kernel

/-! ### Scripts, reset, invariants -/

theorem witness_PseudoInstructions : Line.wf (.pteLeaf 0x80001000 2) ∧ 2 ^ 64 - 1 < 2 ^ 64 := by decide
theorem witness_LineRunsItsCommand : ∀ l ∈ [Line.table, .init 0x10000000 0x10046000],
    l.wf ∧ fresh2.status.busy = false ∧ fresh2.portUser = none ∧
    (fresh2.withAgenda (lineMoves e2 0 2 l)).agenda = lineMoves fresh2.params 0 2 l := by decide +kernel
theorem witness_LineRunsItsCommand_inv : Inv (fresh2.withAgenda (lineMoves e2 0 2 .table)) := inv_fresh2
theorem witness_ResetValues : afterB1.status.busy = false ∧ (afterB1.withAgenda [.reset]).agenda = .reset :: [] ∧
    e2.arenaBase ≤ 0x100FFFFF ∧ 0x100FFFFF < e2.arenaBase + e2.arenaLen := by decide +kernel
/-- An INIT in flight before any INIT was done: the bytes where its range begins and ends, and one outside it; and an
ALLOC in flight: the last byte of the region and the next. -/
theorem witness_ResetInFlightDrawsRegion :
    let s := offered .fbaInit 0x10001000 0x10046000 (State.resetWith e2)
    s.status.busy = true ∧ decode s.cmd = .ok .fbaInit ∧ s.opaNat ≤ 0x10001000 ∧ 0x10045FFF < s.opbNat ∧
    ¬ 0x10046000 < s.opbNat ∧ ¬ 0x10000FFF < s.base + 4096 * s.numFrames ∧ s.params.arenaBase ≤ 0x10000FFF ∧
    inFlight.status.busy = true ∧ inFlight.base ≤ 0x10045FFF ∧
    0x10045FFF < inFlight.base + 4096 * inFlight.numFrames ∧
    ¬ 0x10046000 < inFlight.base + 4096 * inFlight.numFrames ∧ 0x10046000 < inFlight.arenaEnd ∧
    decode inFlight.cmd ≠ .ok .fbaInit := by decide +kernel
theorem witness_ResetHasInvariant : e1.wf ∧ e2.wf ∧ e3.wf := by decide
theorem witness_StepKeepsInvariant :
    ∃ t, Inv inFlight ∧ BootOrder inFlight ∧ MemoryOk inFlight ∧ StatusOk inFlight ∧ step inFlight = .next t := by
  obtain ⟨t, h, -⟩ := of_nextAnd (o := step inFlight) (p := fun _ => true) (by decide +kernel)
  exact ⟨t, inv_inFlight, by decide, inv_inFlight.2.1, inv_inFlight.2.2.1, h⟩
/-- An INIT of `[0x10001000, 0x10046000)` (69 frames, 2 words) in flight before any INIT was done. -/
def initInFlight (raced : List Nat) : State :=
  { offered .fbaInit 0x10001000 0x10046000 (State.resetWith e2) with raced := raced }
/-- Host writes next to the two words the INIT writes keep the boot order; one on their first or last byte does not; an
INIT that fails has no words, and another command is no INIT. -/
theorem witness_BootOrder : BootOrder (initInFlight [0x10000FFF, 0x10001010]) ∧
    ¬ BootOrder (initInFlight [0x10001000]) ∧ ¬ BootOrder (initInFlight [0x1000100F]) ∧
    BootOrder { offered .fbaInit 0x10001000 0x10001000 (State.resetWith e2) with raced := [0x10001000] } ∧
    BootOrder (zallocRaced [0x10001000]) := by decide +kernel
theorem inv_initInFlight (l : List Nat) : Inv (initInFlight l) :=
  have h := inv_offered .fbaInit 0x10001000 0x10046000 inv_reset2
  ⟨h.1, h.2.1, h.2.2.1, h.2.2.2.1, h.2.2.2.2.1, (fun hb => by cases hb)⟩
theorem witness_StepKeepsInvariant_raced :
    ∃ t, Inv (initInFlight [0x10000FFF, 0x10001010]) ∧ BootOrder (initInFlight [0x10000FFF, 0x10001010]) ∧
      step (initInFlight [0x10000FFF, 0x10001010]) = .next t := by
  obtain ⟨t, h, -⟩ := of_nextAnd (o := step (initInFlight [0x10000FFF, 0x10001010])) (p := fun _ => true)
    (by decide +kernel)
  exact ⟨t, inv_initInFlight _, witness_BootOrder.1, h⟩
theorem witness_BitmapBitsChangeOnlyByAllocAndDealloc :
    (∃ t, Inv inFlight ∧ inFlight.status.initDone = true ∧ inFlight.agenda.head? ≠ some .reset ∧
      step inFlight = .next t ∧ inFlight.bit 1 = false ∧ t.bit 1 = true) ∧
    ∃ t, step (offered .fbaDealloc4K 0x10001000 1 afterA1) = .next t ∧
      (offered .fbaDealloc4K 0x10001000 1 afterA1).bit 1 = true ∧ t.bit 1 = false := by
  constructor
  · obtain ⟨t, h, hp⟩ := of_nextAnd (o := step inFlight) (p := fun t => t.bit 1) (by decide +kernel)
    exact ⟨t, inv_inFlight, rfl, by decide, h, by decide +kernel, hp⟩
  · obtain ⟨t, h, hp⟩ := of_nextAnd (o := step (offered .fbaDealloc4K 0x10001000 1 afterA1)) (p := fun t => !t.bit 1)
      (by decide +kernel)
    exact ⟨t, h, by decide +kernel, by simpa using hp⟩

/-! ### Two allocations with steps between them -/

/-- A command as the host gives it: OPA, CMD, the engine's move, the STATUS read that frees the port. -/
def given (i : Instr) (a : Nat) : List Move :=
  [slotStore e1 0 0x08 (BitVec.ofNat 64 a), slotStore e1 0 0 (encode i), .engine, statusPoll e1 0]
/-- An ALLOC.2M in flight; then an ALLOC.4K that fails, a host write in the arena and a ZALLOC.4K. -/
def twoAllocs : State :=
  (offered .fbaAlloc2M 1 0 fresh1).withAgenda
    (.engine :: given .fbaAlloc4K 0 ++ [.host 0 (.arenaWrite 0x80001000 [7#8])] ++ given .fbaZalloc4K 3)
/-- Whether each of the next `n` steps answers a next state and frees nothing, and `p` holds of the last state. -/
def quietRun (p : State → Bool) : Nat → State → Bool
  | 0, s => p s
  | n + 1, s => decide (s.agenda.head? ≠ some .reset) &&
      [SizeClass.c4k, .c2m, .c1g].all (fun c => !decide (Performs c.deallocInstr s)) && nextAnd (step s) (quietRun p n)
theorem of_quietRun (p : State → Bool) (n : Nat) (s : State) (h : quietRun p n s = true) :
    (∀ m x, m < n → core.run m s = .next x → FreesNothing x) ∧ ∃ v, core.run n s = .next v ∧ p v = true := by
  induction n generalizing s with
  | zero => exact ⟨fun m x hm => absurd hm (Nat.not_lt_zero m), s, rfl, h⟩
  | succ n ih =>
    simp only [quietRun, Bool.and_eq_true, decide_eq_true_eq, List.all_eq_true, Bool.not_eq_true', decide_eq_false_iff_not] at h
    obtain ⟨t, ht, hp⟩ := of_nextAnd h.2
    obtain ⟨h1, v, hv, hpv⟩ := ih t hp
    refine ⟨fun m x hm hx => ?_, v, by rw [run_succ n ht]; exact hv, hpv⟩
    cases m with
    | zero =>
      obtain rfl : s = x := Host.Outcome.next.inj (hx : (Host.Outcome.next s : Host.Outcome State Fault Refusal) = .next x)
      exact ⟨h.1.1, fun c => h.1.2 c (by cases c <;> simp)⟩
    | succ m => exact h1 m x (by omega) (by rw [← run_succ m ht]; exact hx)
theorem witness_AllocationsDoNotOverlap_run :
    ∃ t v u, Inv twoAllocs ∧ Performs .fbaAlloc2M twoAllocs ∧ step twoAllocs = .next t ∧ t.status.err = false ∧
      (∀ m x, m < 7 → core.run m t = .next x → FreesNothing x) ∧ core.run 7 t = .next v ∧
      Performs .fbaZalloc4K v ∧ step v = .next u ∧ u.status.err = false := by
  obtain ⟨t, h, hp⟩ := of_nextAnd (o := step twoAllocs)
    (p := fun t => !t.status.err && quietRun (fun v => decide (Performs .fbaZalloc4K v) &&
      nextAnd (step v) (fun u => !u.status.err)) 7 t) (by decide +kernel)
  rw [Bool.and_eq_true] at hp
  obtain ⟨hq, v, hv, hpv⟩ := of_quietRun _ 7 t hp.2
  rw [Bool.and_eq_true, decide_eq_true_eq] at hpv
  obtain ⟨u, hu, hpu⟩ := of_nextAnd hpv.2
  have hI : Inv (offered .fbaAlloc2M 1 0 fresh1) := inv_offered .fbaAlloc2M 1 0 inv_fresh1
  exact ⟨t, v, u, hI, by decide, h, by simpa using hp.1, hq, hv, hpv.1, hu, by simpa using hpu⟩

/-! ### After an INIT raced on its words (logs 20, 21) -/

/-- 70 frames of an arena that ends with them, every bit 1 but the padding bit 70, which a race has left 0. -/
def brokenAt (base : Nat) : State :=
  { State.resetWith { arenaBase := base, arenaLen := 0x46000, mmioBase := 0 } with
    status := afterInit, cfgBase := BitVec.ofNat 64 base, cfgNFrames := 70#64, cfgNWords := 2#64, cfgBmFrames := 1#64
    mem := (List.range 16).map (fun i => (base + i, if i = 8 then 0xBF#8 else 0xFF#8)), unspecified := [] }
/-- ZALLOC of the frame past the arena faults; where the arena ends at `2^64`, ALLOC takes that frame. -/
theorem test_broken_boot_order :
    exec .fbaZalloc4K (offered .fbaZalloc4K 1 0 (brokenAt 0x10000000)) = .fault .engineOutsideArena ∧
    nextAnd (exec .fbaAlloc4K (offered .fbaAlloc4K 1 0 (brokenAt 0xFFFFFFFFFFFBA000)))
      (fun t => t.bit 70 && t.res1 == 1#64 && !t.status.err) = true := by
  constructor
  · have h : (match exec .fbaZalloc4K (offered .fbaZalloc4K 1 0 (brokenAt 0x10000000)) with
        | .fault f => decide (f = .engineOutsideArena) | _ => false) = true := by decide +kernel
    split at h
    · rename_i f hf; rw [hf, of_decide_eq_true h]
    · cases h
  · decide +kernel
theorem witness_AllocationWithoutInvariant :
    (let s := offered .fbaAlloc4K 1 0 (brokenAt 0xFFFFFFFFFFFBA000)
    s.status.initDone = true ∧ CountServed .c4k s.opaNat ∧ s.params.arenaBase ≤ s.base ∧
    s.base + 8 * s.numWords ≤ s.arenaEnd ∧ s.base + 4096 * 70 = 2 ^ 64 ∧ s.arenaEnd < s.base + 4096 * 70 + 4096 * 1) ∧
    FirstFit (offered .fbaAlloc4K 1 0 (brokenAt 0xFFFFFFFFFFFBA000)) .c4k 1 70 := by
  refine ⟨by decide +kernel, ?_⟩
  unfold FirstFit
  refine ⟨?_, ?_, ?_⟩ <;> decide +kernel
/-- The last frame inside the arena, and its ZALLOC. -/
theorem witness_AllocationWithoutInvariant_inside :
    (let s := offered .fbaZalloc4K 1 0 fresh2
    s.params.arenaBase ≤ s.base ∧ s.base + 8 * s.numWords ≤ s.arenaEnd ∧ s.base + 4096 * 1 + 4096 * 1 ≤ s.arenaEnd) ∧
    FirstFit (zallocRaced []) .c4k 1 1 := ⟨by decide +kernel, fits_zallocRaced []⟩

end Sys2Proof.Tests
end

section
/-! The register window and reset: one rule per access to a slot, what a reset leaves in the registers, and the
statements of 10_state that follow from them (O35, O38, O42, O53). -/

namespace Sys2Proof.Machine

/-! ## The slots -/

/-- The words of the window in the order of 10_state R20 are the reads of its sixteen slots. -/
theorem map_readReg_slotAt (s : State) :
    [s.cmd, s.opa, s.opb, s.status.toWord, s.res0, s.res1, s.res2, s.res3, s.cfgBase, s.cfgNFrames, s.cfgNWords,
      s.cfgBmFrames, 1#64, 0#64, 0#64, 0#64] = (List.range 16).map (fun i => s.readReg (slotAt i)) := rfl

/-- Which accesses reach no slot (10_state R36). -/
theorem slotOf_eq_none_iff (s : State) (addr width : Nat) :
    s.slotOf addr width = none ↔ width ≠ 8 ∨ addr < s.params.mmioBase ∨ s.params.mmioBase + 128 ≤ addr ∨
      (addr - s.params.mmioBase) % 8 ≠ 0 := by
  rw [State.slotOf, ite_eq_right_iff]
  simp only [reduceCtorEq, imp_false]
  omega

theorem slotAt_eq_reserved {index : Nat} (h : 13 ≤ index) : slotAt index = .reserved := by
  unfold slotAt
  split
  case h_14 => rfl
  all_goals omega

/-- From offset 0x18 on no slot is one of the three that take a host's write (10_state R28). -/
theorem slotAt_readOnly {index : Nat} (h : 3 ≤ index) :
    slotAt index ≠ .cmd ∧ slotAt index ≠ .opa ∧ slotAt index ≠ .opb := by
  unfold slotAt
  split
  case h_1 | h_2 | h_3 => omega
  all_goals simp

/-! ## Accesses -/

@[simp] theorem withAgenda_readReg (s : State) (l : List Move) (r : Reg) :
    (s.withAgenda l).readReg r = s.readReg r := by cases r <;> rfl
@[simp] theorem withAgenda_portAfterRead (s : State) (l : List Move) (g : Nat) (r : Reg) :
    (s.withAgenda l).portAfterRead g r = s.portAfterRead g r := rfl

/-- 10_state R28: a host write to any register but CMD, OPA and OPB changes nothing. -/
theorem writeReg_readOnly {r : Reg} (h : r ≠ .cmd ∧ r ≠ .opa ∧ r ≠ .opb) (g : Nat) (v : Word) (s : State) :
    writeReg g r v s = .next s := by
  obtain ⟨hcmd, hopa, hopb⟩ := h
  cases r
  case cmd | opa | opb => contradiction
  all_goals rfl

/-- 10_state R35: a read of a slot. -/
theorem step_regRead {s : State} {g addr width : Nat} {r : Reg} {rest : List Move}
    (hr : s.slotOf addr width = some r) (ha : s.agenda = .host g (.regRead addr width) :: rest) :
    step s = .next ((s.withAgenda rest).returnRegister (s.readReg r) (s.portAfterRead g r)) := by
  simp [step_host ha, hostAccess, regAccess, hr]

/-- A write to a slot is the write to its register. -/
theorem step_regWrite {s : State} {g addr width : Nat} {v : Word} {r : Reg} {rest : List Move}
    (hr : s.slotOf addr width = some r) (ha : s.agenda = .host g (.regWrite addr width v) :: rest) :
    step s = writeReg g r v (s.withAgenda rest) := by
  simp [step_host ha, hostAccess, regAccess, hr]

/-- 10_state R36: an access that reaches no slot, a read (`none`) or a write, is refused. -/
theorem regAccess_no_slot {s : State} {addr width : Nat} (h : s.slotOf addr width = none) (g : Nat) (w : Option Word) :
    regAccess g addr width w s = .refused .registerAccess := by
  simp [regAccess, h]

/-! ## Reset -/

@[simp] theorem Status.reset_toWord : Status.reset.toWord = 0#64 := by decide

/-- 10_state R40: the reset value of every register. -/
@[simp] theorem clearRegisters_readReg (s : State) (r : Reg) :
    (clearRegisters s).readReg r = if r = .id then 1#64 else 0#64 := by
  cases r
  case status => exact Status.reset_toWord
  all_goals rfl

/-- The registers at power-on are those a reset leaves. -/
theorem clearRegisters_resetWith (p : Config.Params) : clearRegisters (State.resetWith p) = State.resetWith p := rfl

@[simp] theorem resetWith_readReg (p : Config.Params) (r : Reg) :
    (State.resetWith p).readReg r = if r = .id then 1#64 else 0#64 := by
  rw [← clearRegisters_resetWith, clearRegisters_readReg]

/-- 70_reset_and_hazards R230: with no command in flight a reset only clears the registers. -/
theorem blockReset_of_idle {s : State} (h : s.status.busy = false) : blockReset s = clearRegisters s := by
  simp [blockReset, h]

/-- 10_state R40: at power-on every arena byte is a free value (log 2). -/
theorem resetWith_arenaByte (p : Config.Params) {a : Nat} (hlo : p.arenaBase ≤ a)
    (hhi : a < p.arenaBase + p.arenaLen) : (State.resetWith p).arenaByte a = Config.unspecifiedByte 0 a := by
  simp [State.arenaByte, State.resetWith, Memory.find, unlistedByte_cons, Span.has, hlo, hhi]

/-! ## The statements -/

/-- Settles O35: the indexed word is the read of the slot at that index, which the access reaches. -/
theorem registerReadReturnsValue : Obligations.RegisterReadReturnsValue := by
  intro s agent index v rest hv ha
  rw [map_readReg_slotAt, List.getElem?_map, Option.map_eq_some_iff] at hv
  obtain ⟨i, hi, rfl⟩ := hv
  obtain ⟨hlt, rfl⟩ : index < 16 ∧ index = i := by simpa [List.getElem?_eq_some_iff] using hi
  exact ⟨_, step_regRead (slotOf_index s index hlt) ha, rfl⟩

/-- Settles O38: the slots from index 3 on are read-only, those from 13 on reserved. -/
theorem readOnlyWritesIgnored : Obligations.ReadOnlyWritesIgnored := by
  constructor
  · intro s index hlo hhi
    rw [slotOf_index s index (by omega), slotAt_eq_reserved hlo]
    exact ⟨rfl, rfl⟩
  · intro s agent index v rest hlo hhi ha
    rw [step_regWrite (slotOf_index s index (by omega)) ha]
    exact writeReg_readOnly (slotAt_readOnly hlo) agent v _

/-- Settles O42: such an access reaches no slot. -/
theorem otherWindowAccessRefused : Obligations.OtherWindowAccessRefused := by
  intro s agent addr width v rest a hbad haccess ha
  have hnone : (s.withAgenda rest).slotOf addr width = none := (slotOf_eq_none_iff s addr width).2 hbad
  rw [step_host ha]
  rcases haccess with rfl | rfl
  · exact regAccess_no_slot hnone agent none
  · exact regAccess_no_slot hnone agent (some v)

/-- Settles O53: reset with BUSY 0 only clears the registers; power-on holds the same registers and one unspecified span
over the whole arena. -/
theorem resetValues : Obligations.ResetValues := by
  constructor
  · intro s rest hidle ha
    have hreset : step s = .next (clearRegisters (s.withAgenda rest)) := by
      rw [step_reset ha, blockReset_of_idle (by simpa using hidle)]
    exact ⟨_, hreset, clearRegisters_readReg _, rfl, fun _ => rfl, rfl, rfl⟩
  · exact fun p => ⟨resetWith_readReg p, rfl, rfl, fun _ => resetWith_arenaByte p⟩

end Sys2Proof.Machine
end

section
/-! How a command ends: one lemma for the errors a plan can raise, one for the flags a success leaves, and the statement
of 20_memory R58 that follows from them (O30). -/

namespace Sys2Proof.Machine

open Sys2Proof.Safety

/-! ## The rows of the error matrix (60_exceptions R201) -/

theorem errorsOf_allocInstr (c : SizeClass) : errorsOf c.allocInstr = .allocationExhausted :: classErrors c := by
  cases c <;> rfl

theorem errorsOf_zallocInstr (c : SizeClass) : errorsOf c.zallocInstr = errorsOf c.allocInstr := by
  cases c <;> rfl

theorem errorsOf_deallocInstr (c : SizeClass) :
    errorsOf c.deallocInstr = .doubleFree :: .misalignedAddress :: .outOfRange :: classErrors c := by
  cases c <;> rfl

theorem notInitialized_mem_classErrors (c : SizeClass) : .notInitialized ∈ classErrors c := by
  cases c <;> decide

theorem invalidArgument_mem_classErrors (c : SizeClass) : .invalidArgument ∈ classErrors c := by
  cases c <;> decide

theorem unsupportedOperation_mem_classErrors {c : SizeClass} (h : c = .c1g) :
    .unsupportedOperation ∈ classErrors c := by
  subst h
  decide

/-! ## What each command's checks can raise -/

theorem planInit_raise {s : State} {e : Error} (h : planInit s = .raise e) : e ∈ errorsOf .fbaInit := by
  unfold planInit at h
  split_ifs at h <;> cases h <;> decide

theorem planAlloc_raise {c : SizeClass} {s : State} {e : Error} (h : planAlloc c s = .raise e) :
    e ∈ errorsOf c.allocInstr := by
  rw [errorsOf_allocInstr]
  unfold planAlloc at h
  split_ifs at h with hinit hcount hsingle harena
  · cases h
    exact .tail _ (notInitialized_mem_classErrors c)
  · cases h
    exact .tail _ (invalidArgument_mem_classErrors c)
  · cases h
    exact .tail _ (unsupportedOperation_mem_classErrors hsingle.1)
  · split at h
    · cases h
      exact .head _
    · cases h

theorem planZalloc_raise {c : SizeClass} {s : State} {e : Error} (h : planZalloc c s = .raise e) :
    e ∈ errorsOf c.zallocInstr := by
  rw [errorsOf_zallocInstr]
  unfold planZalloc at h
  split at h
  next => cases h
  next halloc => exact planAlloc_raise (halloc.trans h)
  next => split_ifs at h

theorem planFree_raise {c : SizeClass} {s : State} {e : Error} (h : planFree c s = .raise e) :
    e ∈ errorsOf c.deallocInstr := by
  rw [errorsOf_deallocInstr]
  unfold planFree at h
  split_ifs at h with hinit hcount hsingle
  · cases h
    simp [notInitialized_mem_classErrors]
  · cases h
    simp [invalidArgument_mem_classErrors]
  · cases h
    simp [unsupportedOperation_mem_classErrors hsingle.1]
  all_goals
    cases h
    simp

theorem planEnc_raise {s : State} {e : Error} (h : planEnc s = .raise e) : e ∈ errorsOf .pteEnc := by
  unfold planEnc at h
  split_ifs at h <;> cases h <;> decide

/-! ## How a command can end -/

/-- The flags after a command that ended with `finish_ok` (60_exceptions R203; 20_memory R52): INIT_DONE is left open,
because FBA.INIT sets it. -/
structure EndedOk (s t : State) : Prop where
  done : t.status.done = true
  busy : t.status.busy = false
  err : t.status.err = false
  errcode : t.status.errcode = 0#4
  fatal : t.status.fatal = s.status.fatal
  overrun : t.status.overrun = s.status.overrun

/-- `finish_ok` and the end of the perform step, after writes that touch neither FATAL nor OVERRUN. -/
theorem endedOk_finishOk {s u : State} (r0 r1 r2 r3 : Word) (hfatal : u.status.fatal = s.status.fatal)
    (hoverrun : u.status.overrun = s.status.overrun) : EndedOk s (endPerform (finishOk r0 r1 r2 r3 u)) :=
  ⟨rfl, rfl, rfl, rfl, hfatal, hoverrun⟩

/-- The same after a command that writes nothing but arena bytes. -/
theorem endedOk_of_sameButBytes {s u : State} (r0 r1 r2 r3 : Word) (h : SameButBytes s u) :
    EndedOk s (endPerform (finishOk r0 r1 r2 r3 u)) :=
  endedOk_finishOk r0 r1 r2 r3 (by rw [h.status]) (by rw [h.status])

/-- FBA.INIT changes STATUS by `finish_ok` and INIT_DONE alone (41_frame_allocator R100). -/
theorem applyInit_status (s : State) (p : InitLayout) :
    (applyInit s p).status = { s.status.finishOk with initDone := true } := by
  have hsame := (layBitmap_same p (writeCfg p s)).trans (settleRaces_same s p.start (p.start + 8 * p.words) _)
  simp [applyInit, setInitDone, hsame.status, Status.finishOk]

theorem applyInit_endedOk (s : State) (p : InitLayout) : EndedOk s (endPerform (applyInit s p)) := by
  constructor <;> simp [applyInit_status]

theorem applyAlloc_endedOk (s : State) (r : FrameRun) : EndedOk s (endPerform (applyAlloc s r)) :=
  endedOk_of_sameButBytes _ _ _ _ (setFrames_same s r.k r.n)

theorem applyZalloc_endedOk (s : State) (r : FrameRun) : EndedOk s (endPerform (applyZalloc s r)) :=
  endedOk_of_sameButBytes _ _ _ _
    (((setFrames_same s r.k r.n).trans (zeroRange_same _ _ _)).trans (settleRaces_same s _ _ _))

theorem applyFree_endedOk (s : State) (r : FrameRun) : EndedOk s (endPerform (applyFree s r)) :=
  endedOk_of_sameButBytes _ _ _ _ (clearFrames_same s r.k r.n)

/-- 60_exceptions R204, 20_memory R52: the whole effect of a command that raises. -/
theorem raise_failsWith (e : Error) (s : State) : FailsWith e s (endPerform (raise e s)) :=
  ⟨⟨rfl, rfl, rfl, rfl⟩, rfl, fun _ => rfl, ⟨rfl, rfl, rfl, rfl⟩, ⟨rfl, rfl, rfl, rfl, rfl, rfl, rfl⟩, rfl⟩

theorem failsWith_flags {e : Error} {s t : State} (h : FailsWith e s t) :
    t.status.done = true ∧ t.status.busy = false ∧ t.status.err = true := by
  obtain ⟨-, hstatus, -⟩ := h
  simp [hstatus]

/-- A command run from a plan fails with an error of the plan, or ends as its own effect does. -/
theorem runPlan_ends {α : Type} {p : Plan α} {s t : State} {go : α → State} {errors : List Error}
    (hraise : ∀ {e}, p = .raise e → e ∈ errors) (hgo : ∀ a, EndedOk s (endPerform (go a)))
    (h : runPlan p s go = .next t) : (∃ e ∈ errors, FailsWith e s t) ∨ EndedOk s t := by
  rcases runPlan_next h with ⟨e, hp, rfl⟩ | ⟨a, -, rfl⟩
  · exact .inl ⟨e, hraise hp, raise_failsWith e s⟩
  · exact .inr (hgo a)

/-- The twelve commands by family (30_encoding R81). -/
theorem instr_family_cases : ∀ i : Instr,
    i = .fbaInit ∨ (∃ c : SizeClass, i = c.allocInstr) ∨ (∃ c : SizeClass, i = c.zallocInstr) ∨
      (∃ c : SizeClass, i = c.deallocInstr) ∨ i = .pteEnc ∨ i = .pteDec
  | .fbaInit => .inl rfl
  | .fbaAlloc4K => .inr (.inl ⟨.c4k, rfl⟩)
  | .fbaAlloc2M => .inr (.inl ⟨.c2m, rfl⟩)
  | .fbaAlloc1G => .inr (.inl ⟨.c1g, rfl⟩)
  | .fbaZalloc4K => .inr (.inr (.inl ⟨.c4k, rfl⟩))
  | .fbaZalloc2M => .inr (.inr (.inl ⟨.c2m, rfl⟩))
  | .fbaZalloc1G => .inr (.inr (.inl ⟨.c1g, rfl⟩))
  | .fbaDealloc4K => .inr (.inr (.inr (.inl ⟨.c4k, rfl⟩)))
  | .fbaDealloc2M => .inr (.inr (.inr (.inl ⟨.c2m, rfl⟩)))
  | .fbaDealloc1G => .inr (.inr (.inr (.inl ⟨.c1g, rfl⟩)))
  | .pteEnc => .inr (.inr (.inr (.inr (.inl rfl))))
  | .pteDec => .inr (.inr (.inr (.inr (.inr rfl))))

/-- 60_exceptions R201, R203, R204: a performed command fails with an error of its row, or ends with `finish_ok`. -/
theorem exec_ends {i : Instr} {s t : State} (h : exec i s = .next t) :
    (∃ e ∈ errorsOf i, FailsWith e s t) ∨ EndedOk s t := by
  rcases instr_family_cases i with rfl | ⟨c, rfl⟩ | ⟨c, rfl⟩ | ⟨c, rfl⟩ | rfl | rfl
  · exact runPlan_ends planInit_raise (applyInit_endedOk s) h
  · exact runPlan_ends planAlloc_raise (applyAlloc_endedOk s) (exec_alloc c s ▸ h)
  · exact runPlan_ends planZalloc_raise (applyZalloc_endedOk s) (exec_zalloc c s ▸ h)
  · exact runPlan_ends planFree_raise (applyFree_endedOk s) (exec_dealloc c s ▸ h)
  · exact runPlan_ends planEnc_raise (fun w => endedOk_finishOk w _ _ _ rfl rfl) h
  · cases h
    exact .inr (endedOk_finishOk _ _ _ _ rfl rfl)

/-- The engine's move in flight, an illegal word's included (30_encoding R83). -/
theorem perform_ends {s t : State} (h : perform s = .next t) : (∃ e, FailsWith e s t) ∨ EndedOk s t := by
  rcases perform_next h with ⟨-, -, rfl⟩ | ⟨i, -, hexec⟩
  · exact .inl ⟨.illegalCommand, raise_failsWith .illegalCommand s⟩
  · exact (exec_ends hexec).imp_left fun ⟨e, _, hfails⟩ => ⟨e, hfails⟩

/-- 20_memory R52, R53: with no other move to come, the step of a state in flight is its perform step. -/
theorem step_eq_perform {s : State} (hbusy : s.status.busy = true) (hagenda : s.agenda = []) : step s = perform s := by
  rw [step_nil hagenda, engineMove, if_pos hbusy]

/-! ## The statement -/

/-- Settles O30: a command fails with an error of its row or ends with `finish_ok`, and ERR tells the two apart. -/
theorem errorChangesNothingElse : Obligations.ErrorChangesNothingElse := by
  constructor
  · intro s t hbusy hagenda hstep herr
    rw [step_eq_perform hbusy hagenda] at hstep
    exact (perform_ends hstep).resolve_right fun hok => by simp [hok.err] at herr
  · intro i s t h
    rcases exec_ends h with ⟨e, he, hfails⟩ | hok
    · obtain ⟨hdone, hbusy, herr⟩ := failsWith_flags hfails
      exact ⟨hdone, hbusy, fun _ => ⟨e, he, hfails⟩, fun hnot => by simp [hnot] at herr⟩
    · exact ⟨hok.done, hok.busy, fun herr => by simp [hok.err] at herr,
        fun _ => ⟨hok.errcode, hok.fatal, hok.overrun⟩⟩

end Sys2Proof.Machine
end

section
/-! The decoder read backwards: its branches in terms of the fields, the legal words as the encodings of the commands,
the reserved space as the decoder's errors; what the machine does with an illegal word, and the statements of 30_encoding
that follow from them (O3, O4). -/

namespace Sys2Proof

open Sys2Proof.Safety (legalWords)

/-! ## The fields of a word (30_encoding R80) -/

/-- A word whose reserved bits are 0 is put together from its fields OP and SC. -/
theorem eq_cmd64_of_rsvdField {v : Word} (h : rsvdField v = 0#58) : v = cmd64 (opField v) (scField v) := by
  have hjoin : (rsvdField v ++ scField v) ++ opField v = v := by
    rw [rsvdField, scField, opField, BitVec.extractLsb'_append_extractLsb'_eq_extractLsb' (by rfl),
      BitVec.extractLsb'_append_extractLsb'_eq_extractLsb' (by rfl), BitVec.extractLsb'_eq_self]
  rw [cmd64, ← h, hjoin]

/-- The SC value of a size class (30_encoding R82). -/
def SizeClass.scCode : SizeClass → BitVec 2
  | .c4k => 0#2
  | .c2m => 1#2
  | .c1g => 2#2

theorem sizeClassOf_eq_some_iff {sc : BitVec 2} {c : SizeClass} : sizeClassOf sc = some c ↔ sc = c.scCode := by
  revert sc
  cases c <;> decide

theorem sizeClassOf_eq_none_iff {sc : BitVec 2} : sizeClassOf sc = none ↔ sc = 3#2 := by
  revert sc
  decide

/-! ## The branches of the decoder (30_encoding R86) -/

theorem decodeSized_eq_ok_iff {sc : BitVec 2} {instr : SizeClass → Instr} {i : Instr} :
    decodeSized sc instr = .ok i ↔ ∃ c : SizeClass, sc = c.scCode ∧ i = instr c := by
  simp only [decodeSized, ← sizeClassOf_eq_some_iff]
  cases sizeClassOf sc <;> simp [eq_comm]

theorem decodeSized_eq_error_iff {sc : BitVec 2} {instr : SizeClass → Instr} :
    (∃ e, decodeSized sc instr = .error e) ↔ sc = 3#2 := by
  simp only [decodeSized, ← sizeClassOf_eq_none_iff]
  cases sizeClassOf sc <;> simp

theorem decodeUnsized_eq_ok_iff {sc : BitVec 2} {instr i : Instr} :
    decodeUnsized sc instr = .ok i ↔ sc = 0#2 ∧ i = instr := by
  by_cases h : sc = 0#2 <;> simp [decodeUnsized, h, eq_comm]

theorem decodeUnsized_eq_error_iff {sc : BitVec 2} {instr : Instr} :
    (∃ e, decodeUnsized sc instr = .error e) ↔ sc ≠ 0#2 := by
  by_cases h : sc = 0#2 <;> simp [decodeUnsized, h]

/-! ## Legal words: the encodings of the commands (30_encoding R81, R83) -/

theorem encode_allocInstr (c : SizeClass) : encode c.allocInstr = cmd64 0x2#4 c.scCode := by
  cases c <;> rfl

theorem encode_zallocInstr (c : SizeClass) : encode c.zallocInstr = cmd64 0x3#4 c.scCode := by
  cases c <;> rfl

theorem encode_deallocInstr (c : SizeClass) : encode c.deallocInstr = cmd64 0x4#4 c.scCode := by
  cases c <;> rfl

theorem decode_encode (i : Instr) : decode (encode i) = .ok i := by
  cases i <;> rfl

theorem eq_cmd64_of_opField {v : Word} {op : BitVec 4} (hrsvd : rsvdField v = 0#58)
    (hop : (opField v).toNat = op.toNat) : v = cmd64 op (scField v) := by
  rw [← BitVec.eq_of_toNat_eq hop]
  exact eq_cmd64_of_rsvdField hrsvd

theorem eq_encode_of_decodeSized {v : Word} {op : BitVec 4} {instr : SizeClass → Instr} {i : Instr}
    (henc : ∀ c, encode (instr c) = cmd64 op c.scCode) (hv : v = cmd64 op (scField v))
    (hdec : decodeSized (scField v) instr = .ok i) : v = encode i := by
  obtain ⟨c, hsc, rfl⟩ := decodeSized_eq_ok_iff.1 hdec
  rw [henc, ← hsc, ← hv]

theorem eq_encode_of_decodeUnsized {v : Word} {op : BitVec 4} {instr i : Instr}
    (henc : encode instr = cmd64 op 0#2) (hv : v = cmd64 op (scField v))
    (hdec : decodeUnsized (scField v) instr = .ok i) : v = encode i := by
  obtain ⟨hsc, rfl⟩ := decodeUnsized_eq_ok_iff.1 hdec
  rw [henc, ← hsc, ← hv]

/-- No bit of a command word is dropped: OP, SC and the reserved bits are all fixed by the command. -/
theorem eq_encode_of_decode {v : Word} {i : Instr} (h : decode v = .ok i) : v = encode i := by
  unfold decode at h
  split at h
  case isFalse => cases h
  case isTrue hrsvd =>
    split at h
    case h_1 hop => exact eq_encode_of_decodeUnsized rfl (eq_cmd64_of_opField (op := 0x1#4) hrsvd hop) h
    case h_2 hop => exact eq_encode_of_decodeSized encode_allocInstr (eq_cmd64_of_opField hrsvd hop) h
    case h_3 hop => exact eq_encode_of_decodeSized encode_zallocInstr (eq_cmd64_of_opField hrsvd hop) h
    case h_4 hop => exact eq_encode_of_decodeSized encode_deallocInstr (eq_cmd64_of_opField hrsvd hop) h
    case h_5 hop => exact eq_encode_of_decodeUnsized rfl (eq_cmd64_of_opField (op := 0x8#4) hrsvd hop) h
    case h_6 hop => exact eq_encode_of_decodeUnsized rfl (eq_cmd64_of_opField (op := 0x9#4) hrsvd hop) h
    case h_7 => cases h

/-- The twelve words of R81 are the encodings of the twelve commands. -/
theorem mem_legalWords_iff {v : Word} : v ∈ legalWords ↔ ∃ i, v = encode i := by
  have hwords : legalWords = [Instr.fbaInit, .fbaAlloc4K, .fbaAlloc2M, .fbaAlloc1G, .fbaZalloc4K, .fbaZalloc2M,
    .fbaZalloc1G, .fbaDealloc4K, .fbaDealloc2M, .fbaDealloc1G, .pteEnc, .pteDec].map encode := rfl
  rw [hwords, List.mem_map]
  constructor
  · rintro ⟨i, -, rfl⟩
    exact ⟨i, rfl⟩
  · rintro ⟨i, rfl⟩
    exact ⟨i, by cases i <;> decide, rfl⟩

theorem decode_eq_ok_iff_mem_legalWords {v : Word} : (∃ i, decode v = .ok i) ↔ v ∈ legalWords := by
  rw [mem_legalWords_iff]
  constructor
  · rintro ⟨i, h⟩
    exact ⟨i, eq_encode_of_decode h⟩
  · rintro ⟨i, rfl⟩
    exact ⟨i, decode_encode i⟩

theorem decode_eq_error_iff_not_mem_legalWords {v : Word} : (∃ e, decode v = .error e) ↔ v ∉ legalWords := by
  rw [← decode_eq_ok_iff_mem_legalWords]
  cases decode v <;> simp

/-! ## The reserved space: the decoder's errors (30_encoding R87) -/

/-- The OP values that name no operation. -/
def reservedOps : List (BitVec 4) := [0x0#4, 0x5#4, 0x6#4, 0x7#4, 0xA#4, 0xB#4, 0xC#4, 0xD#4, 0xE#4, 0xF#4]

/-- The operations that take no size class. -/
def unsizedOps : List (BitVec 4) := [0x1#4, 0x8#4, 0x9#4]

/-- The sixteen values of OP: three operations that take a size class, three that take none, ten that name none. -/
theorem opField_cases (op : BitVec 4) :
    (op.toNat ∈ [2, 3, 4] → op ∉ reservedOps ∧ op ∉ unsizedOps) ∧
    (op.toNat ∈ [1, 8, 9] → op ∉ reservedOps ∧ op ∈ unsizedOps) ∧
    (op.toNat ∉ [1, 2, 3, 4, 8, 9] → op ∈ reservedOps) := by
  revert op
  decide

/-- The reserved space as 30_encoding R87 lists it. -/
def IsReserved (v : Word) : Prop :=
  opField v ∈ reservedOps ∨ scField v = 3#2 ∨ (scField v ≠ 0#2 ∧ opField v ∈ unsizedOps) ∨ rsvdField v ≠ 0#58

/-- An operation that takes a size class has no reserved word but SC = 3. -/
theorem isReserved_iff_of_sized {v : Word} (hrsvd : rsvdField v = 0#58) (hop : (opField v).toNat ∈ [2, 3, 4]) :
    IsReserved v ↔ scField v = 3#2 := by
  obtain ⟨hsized, -, -⟩ := opField_cases (opField v)
  simp [IsReserved, hrsvd, hsized hop]

/-- An operation that takes none: every SC but 0 is reserved, 3 among them. -/
theorem isReserved_iff_of_unsized {v : Word} (hrsvd : rsvdField v = 0#58) (hop : (opField v).toNat ∈ [1, 8, 9]) :
    IsReserved v ↔ scField v ≠ 0#2 := by
  obtain ⟨-, hunsized, -⟩ := opField_cases (opField v)
  have hsc : scField v = 3#2 → scField v ≠ 0#2 := fun h => by simp [h]
  simpa [IsReserved, hrsvd, hunsized hop] using hsc

theorem decode_eq_error_iff_isReserved {v : Word} : (∃ e, decode v = .error e) ↔ IsReserved v := by
  unfold decode
  split
  case isFalse hrsvd => exact ⟨fun _ => .inr (.inr (.inr hrsvd)), fun _ => ⟨_, rfl⟩⟩
  case isTrue hrsvd =>
    split
    case h_1 hop | h_5 hop | h_6 hop =>
      rw [decodeUnsized_eq_error_iff, isReserved_iff_of_unsized hrsvd (by simp [hop])]
    case h_2 hop | h_3 hop | h_4 hop =>
      rw [decodeSized_eq_error_iff, isReserved_iff_of_sized hrsvd (by simp [hop])]
    case h_7 h1 h2 h3 h4 h8 h9 =>
      obtain ⟨-, -, hreserved⟩ := opField_cases (opField v)
      exact ⟨fun _ => .inl (hreserved (by simpa using ⟨h1, h2, h3, h4, h8, h9⟩)), fun _ => ⟨_, rfl⟩⟩

end Sys2Proof

namespace Sys2Proof.Machine

open Sys2Proof.Safety

/-! ## An illegal word in the machine -/

/-- 30_encoding R83: the engine's move for an illegal word in flight only raises. -/
theorem engineMove_illegal {s : State} (hbusy : s.status.busy = true) (hillegal : s.cmd ∉ legalWords) :
    engineMove s = .next (endPerform (raise .illegalCommand s)) := by
  obtain ⟨e, he⟩ := decode_eq_error_iff_not_mem_legalWords.2 hillegal
  simp [engineMove, hbusy, perform, he, conclude]

/-- 10_state R33: an idle block whose port no other agent holds accepts a CMD write, whatever the word. -/
theorem step_cmdWrite_of_idle {s : State} {g : Nat} {v : Word} {rest : List Move} (hidle : s.status.busy = false)
    (hport : s.portTaken g = false) (ha : s.agenda = .host g (.regWrite s.params.mmioBase 8 v) :: rest) :
    step s = .next ((acceptCommand v (s.withAgenda rest)).holdPort g true) := by
  have hfree : (s.withAgenda rest).portTaken g = false := hport
  rw [step_regWrite (slotOf_index s 0 (by omega)) ha]
  simp [slotAt, writeReg, portWrite, hidle, hfree]

/-! ## The statements -/

/-- Settles O3: acceptance does not decode the word, and the engine's move for an illegal one only raises. -/
theorem illegalWordAcceptedThenFails : Obligations.IllegalWordAcceptedThenFails := by
  constructor
  · exact fun v => decode_eq_ok_iff_mem_legalWords
  · intro s agent v hidle hport hillegal hagenda
    exact ⟨_, _, step_cmdWrite_of_idle hidle hport hagenda, rfl, rfl,
      (step_engine rfl).trans (engineMove_illegal rfl hillegal), raise_failsWith _ _⟩

/-- Settles O4: the words R87 lists are those the decoder turns away, and none of them is one of the twelve. -/
theorem reservedSpaceIsIllegal : Obligations.ReservedSpaceIsIllegal := by
  intro v
  constructor
  · exact decode_eq_error_iff_not_mem_legalWords.symm.trans decode_eq_error_iff_isReserved
  · rintro hillegal s rfl hbusy hagenda
    exact ⟨_, (step_nil hagenda).trans (engineMove_illegal hbusy hillegal), raise_failsWith _ _⟩

end Sys2Proof.Machine
end

section
/-! SetFrames and ClearFrames as the loops of their rules (41_frame_allocator R101, R102): the mask of a range grows by
one frame's bit per turn, so the mask of log 12 does at once what the loop does turn by turn. -/

namespace Sys2Proof.Machine

/-! ## The mask of a range, frame by frame -/

/-- The mask of no frames. -/
theorem frameMask_zero (k w : Nat) : frameMask k 0 w = 0#64 := by
  apply BitVec.eq_of_getLsbD_eq
  intro b hb
  rw [frameMask_getLsbD k 0 w b hb, BitVec.getLsbD_zero, decide_eq_false_iff_not]
  omega

/-- One more frame adds its bit to the mask of its own word and to no other. -/
theorem frameMask_succ (k n w : Nat) : frameMask k (n + 1) w =
    frameMask k n w ||| (if (k + n) / 64 = w then 1#64 <<< ((k + n) % 64) else 0#64) := by
  apply BitVec.eq_of_getLsbD_eq
  intro b hb
  rw [BitVec.getLsbD_or, frameMask_getLsbD k (n + 1) w b hb, frameMask_getLsbD k n w b hb, Bool.eq_iff_iff]
  split <;> simp [hb] <;> omega

/-- A word that holds no frame of the range has no bit in its mask. -/
theorem frameMask_of_not_mem_wordsOf {k n w : Nat} (h : w ∉ wordsOf k n) : frameMask k n w = 0#64 := by
  rw [mem_wordsOf] at h
  apply BitVec.eq_of_getLsbD_eq
  intro b hb
  rw [frameMask_getLsbD k n w b hb, BitVec.getLsbD_zero, decide_eq_false_iff_not]
  omega

/-- Clearing an empty mask clears nothing. -/
theorem and_not_zero (x : Word) : x &&& ~~~ 0#64 = x := by rw [BitVec.not_zero, BitVec.and_allOnes]

/-! ## The words after an update -/

/-- What `SetFrames` does to every word, the words out of the range included (41_frame_allocator R101). -/
theorem bm_setFrames (s : State) (k n w : Nat) : (s.setFrames k n).bm w = s.bm w ||| frameMask k n w := by
  rw [State.setFrames, bm_updateWords]
  split
  next => rfl
  next hout => rw [frameMask_of_not_mem_wordsOf hout, BitVec.or_zero]

/-- What `ClearFrames` does to every word, the words out of the range included (41_frame_allocator R102). -/
theorem bm_clearFrames (s : State) (k n w : Nat) : (s.clearFrames k n).bm w = s.bm w &&& ~~~ frameMask k n w := by
  rw [State.clearFrames, bm_updateWords]
  split
  next => rfl
  next hout => rw [frameMask_of_not_mem_wordsOf hout, and_not_zero]

/-- No bitmap word lies below `BASE`, so an update of words changes no byte there. -/
theorem arenaByte_updateWords_below_base (s : State) (k n : Nat) (f : Nat → Word → Word) {a : Nat} (ha : a < s.base) :
    (s.updateWords k n f).arenaByte a = s.arenaByte a :=
  arenaByte_updateWords_outside s k n f a (.inl (ha.trans_le (Nat.le_add_right _ _)))

/-! ## The loops -/

/-- The loop of 41_frame_allocator R101 on one word. -/
theorem foldl_setFrame_eq (k n w : Nat) (x : Word) :
    (List.range n).foldl (fun x i => if (k + i) / 64 = w then x ||| (1#64 <<< ((k + i) % 64)) else x) x =
      x ||| frameMask k n w := by
  induction n with
  | zero => simp only [List.range_zero, List.foldl_nil, frameMask_zero, BitVec.or_zero]
  | succ n ih =>
    rw [List.range_succ, List.foldl_append, ih, frameMask_succ, List.foldl_cons, List.foldl_nil, ← BitVec.or_assoc]
    split
    next => rfl
    next => rw [BitVec.or_zero]

/-- The loop of 41_frame_allocator R102 on one word. -/
theorem foldl_clearFrame_eq (k n w : Nat) (x : Word) :
    (List.range n).foldl (fun x i => if (k + i) / 64 = w then x &&& ~~~ (1#64 <<< ((k + i) % 64)) else x) x =
      x &&& ~~~ frameMask k n w := by
  induction n with
  | zero => simp only [List.range_zero, List.foldl_nil, frameMask_zero, and_not_zero]
  | succ n ih =>
    rw [List.range_succ, List.foldl_append, ih, frameMask_succ, List.foldl_cons, List.foldl_nil, BitVec.not_or,
      ← BitVec.and_assoc]
    split
    next => rfl
    next => rw [and_not_zero]

/-! ## The statements -/

/-- Settles O27: both the loop and `SetFrames` or the range's mask into the word. -/
theorem setFramesIsItsLoop : Obligations.SetFramesIsItsLoop := by
  intro s k n w
  exact ⟨(bm_setFrames s k n w).trans (foldl_setFrame_eq k n w _).symm,
    fun a => arenaByte_updateWords_below_base s k n _⟩

/-- Settles O28: both the loop and `ClearFrames` take the range's mask out of the word. -/
theorem clearFramesIsItsLoop : Obligations.ClearFramesIsItsLoop := by
  intro s k n w
  exact ⟨(bm_clearFrames s k n w).trans (foldl_clearFrame_eq k n w _).symm,
    fun a => arenaByte_updateWords_below_base s k n _⟩

end Sys2Proof.Machine
end

section
/-! First fit: each search path of 41_frame_allocator R105 to R107 answers with the least candidate whose frames are
free, and with nothing iff there is none. A path visits blocks of frames in ascending order and finds the least hit of
each block, so the least hit of all is the first block's that has one. -/

namespace Sys2Proof.Machine

open Sys2Proof.Safety

/-! ## The least hit of a search -/

/-- An answer is the least number with a property, or there is none. -/
def LeastHit (P : Nat → Prop) : Option Nat → Prop
  | none => ∀ k, ¬ P k
  | some k => P k ∧ ∀ k' < k, ¬ P k'

theorem LeastHit.congr {P Q : Nat → Prop} {o : Option Nat} (h : ∀ k, P k ↔ Q k) (hP : LeastHit P o) : LeastHit Q o := by
  rwa [← (funext fun k => propext (h k) : P = Q)]

theorem LeastHit.eq_some_iff {P : Nat → Prop} {o : Option Nat} (h : LeastHit P o) (k : Nat) :
    o = some k ↔ P k ∧ ∀ k' < k, ¬ P k' := by
  cases o with
  | none => exact ⟨fun hk => (by cases hk), fun hk => absurd hk.1 (h k)⟩
  | some m =>
    obtain ⟨hm, hleast⟩ := h
    constructor
    · rintro ⟨⟩
      exact ⟨hm, hleast⟩
    · rintro ⟨hk, hkleast⟩
      have hmk : ¬ m < k := fun hlt => hkleast m hlt hm
      have hkm : ¬ k < m := fun hlt => hleast k hlt hk
      rw [show m = k by omega]

theorem LeastHit.eq_none_iff {P : Nat → Prop} {o : Option Nat} (h : LeastHit P o) : o = none ↔ ∀ k, ¬ P k := by
  cases o with
  | none => exact ⟨fun _ => h, fun _ => rfl⟩
  | some m => exact ⟨fun hm => (by cases hm), fun hnone => absurd h.1 (hnone m)⟩

/-- One place to look at. -/
theorem leastHit_ite {P : Nat → Prop} {b : Bool} {a : Nat} (h : ∀ k, P k ↔ k = a ∧ b = true) :
    LeastHit P (if b then some a else none) := by
  cases b with
  | false => exact fun k hk => by cases ((h k).1 hk).2
  | true =>
    refine ⟨(h a).2 ⟨rfl, rfl⟩, fun k hlt hk => ?_⟩
    rw [((h k).1 hk).1] at hlt
    exact lt_irrefl a hlt

/-- The same search counted from an offset. -/
theorem LeastHit.map_add {P Q : Nat → Prop} {o : Option Nat} (a : Nat) (hlow : ∀ k, Q k → a ≤ k)
    (h : ∀ i, P i ↔ Q (a + i)) (hP : LeastHit P o) : LeastHit Q (o.map (fun i => a + i)) := by
  have hat : ∀ k, Q k → P (k - a) := fun k hk => (h _).2 (by rwa [Nat.add_sub_cancel' (hlow k hk)])
  cases o with
  | none => exact fun k hk => hP _ (hat k hk)
  | some m =>
    refine ⟨(h m).1 hP.1, fun k hlt hk => hP.2 (k - a) ?_ (hat k hk)⟩
    have hak := hlow k hk
    simp only at hlt
    omega

theorem leastHit_find?_range (n : Nat) (p : Nat → Bool) :
    LeastHit (fun i => i < n ∧ p i = true) ((List.range n).find? p) := by
  cases hfind : (List.range n).find? p with
  | none =>
    rintro i ⟨hi, hp⟩
    simpa [hp] using List.find?_range_eq_none.1 hfind i hi
  | some i =>
    obtain ⟨hp, hmem, hleast⟩ := List.find?_range_eq_some.1 hfind
    refine ⟨⟨List.mem_range.1 hmem, hp⟩, fun j hj hpj => ?_⟩
    simpa [hpj.2] using hleast j hj

/-- Blocks of `d` numbers searched in ascending order: the first block with a hit has the least hit of all. -/
theorem leastHit_findSome?_range {P : Nat → Prop} {f : Nat → Option Nat} (d n : Nat)
    (hblock : ∀ w < n, LeastHit (fun k => P k ∧ k / d = w) (f w)) :
    LeastHit (fun k => P k ∧ k / d < n) ((List.range n).findSome? f) := by
  induction n with
  | zero => exact fun k hk => Nat.not_lt_zero _ hk.2
  | succ n ih =>
    have hbefore := ih fun w hw => hblock w (by omega)
    have hlast := hblock n (by omega)
    rw [List.range_succ, List.findSome?_append, List.findSome?_singleton]
    cases hfound : (List.range n).findSome? f with
    | some m =>
      rw [hfound] at hbefore
      obtain ⟨⟨hPm, hmn⟩, hleast⟩ := hbefore
      refine ⟨⟨hPm, by omega⟩, fun k hlt hk => hleast k hlt ⟨hk.1, ?_⟩⟩
      exact (Nat.div_le_div_right hlt.le).trans_lt hmn
    | none =>
      rw [hfound] at hbefore
      rw [Option.none_or]
      have hsplit : ∀ k, P k → k / d < n + 1 → k / d = n := fun k hPk hk => by
        have hnot : ¬ k / d < n := fun hlt => hbefore k ⟨hPk, hlt⟩
        omega
      exact hlast.congr fun k => ⟨fun ⟨hPk, hk⟩ => ⟨hPk, by omega⟩, fun ⟨hPk, hk⟩ => ⟨hPk, hsplit k hPk hk⟩⟩

/-! ## The words of a search: free windows, free runs -/

/-- `freecount` counts the bits that are 0 (00_scope R11). -/
theorem freecount_eq_countP (x : Word) : freecount x = (List.range 64).countP (fun b => !x.getLsbD b) := by
  have hsum := List.length_eq_countP_add_countP (fun b => x.getLsbD b) (l := List.range 64)
  have hnot : (fun b => decide ¬ x.getLsbD b = true) = fun b => !x.getLsbD b := funext fun b => by simp
  rw [hnot, List.length_range] at hsum
  rw [freecount, popcount]
  omega

/-- 41_frame_allocator R105, "The freecount test never changes the result": a free window is `n` bits that are 0. -/
theorem le_freecount_of_windowFree {x : Word} {n i : Nat} (hi : i + n ≤ 64) (h : windowFree x n i = true) :
    n ≤ freecount x := by
  rw [windowFree_iff x n i hi] at h
  have hall : ∀ b ∈ List.range' i n, (!x.getLsbD b) = true := fun b hb => by
    rw [List.mem_range'_1] at hb
    simp [h b hb.1 hb.2]
  have hsub : List.range' i n ⊆ List.range 64 := fun b hb => by
    rw [List.mem_range'_1] at hb
    exact List.mem_range.2 (by omega)
  calc n = (List.range' i n).countP (fun b => !x.getLsbD b) := by
        rw [List.countP_eq_length.2 hall, List.length_range']
    _ ≤ (List.range 64).countP (fun b => !x.getLsbD b) := (List.Nodup.subperm List.nodup_range' hsub).countP_le _
    _ = freecount x := (freecount_eq_countP x).symm

/-- R106's test of a run of `n` frames from word `w`: `n div 64` free words, then `n mod 64` leading free bits. -/
theorem runFits_iff_freeRun (s : State) (n w : Nat) :
    s.runFits (n / 64) (n % 64) w = true ↔ FreeRun s (64 * w) n := by
  rw [runFits_iff s _ _ _ (by omega), show 64 * (w + n / 64) + n % 64 = 64 * w + n by omega]
  exact ⟨fun h j h1 h2 => h j h2 h1, fun h j h1 h2 => h j h2 h1⟩

/-- `m` free words are `64 * m` free frames. -/
theorem wordsFree_iff_freeRun (s : State) (w m : Nat) :
    s.wordsFree w m = true ↔ FreeRun s (64 * w) (64 * m) := by
  rw [← runFits_iff_freeRun, Nat.mul_div_cancel_left m (by omega), Nat.mul_mod_right]
  simp [State.runFits]

/-- A free window of a word is a free run of the frames that the window tracks. -/
theorem windowFree_bm_iff (s : State) (w n i : Nat) (hi : i + n ≤ 64) :
    windowFree (s.bm w) n i = true ↔ FreeRun s (64 * w + i) n := by
  rw [windowFree_iff (s.bm w) n i hi]
  constructor
  · intro h j hj1 hj2
    have hw : j / 64 = w := by omega
    simpa [State.bit, hw] using h (j % 64) (by omega) (by omega)
  · intro h b hb1 hb2
    have hw : (64 * w + b) / 64 = w := by omega
    have hb : (64 * w + b) % 64 = b := by omega
    simpa [State.bit, hw, hb] using h (64 * w + b) (by omega) (by omega)

/-! ## The three paths -/

/-- A candidate of the request whose frames are free. -/
def FreeCandidate (s : State) (c : SizeClass) (count k : Nat) : Prop :=
  Candidate s c count k ∧ FreeRun s k (count * framesPer c)

theorem firstFit_iff {s : State} {c : SizeClass} {count k : Nat} :
    FirstFit s c count k ↔ FreeCandidate s c count k ∧ ∀ k' < k, ¬ FreeCandidate s c count k' := by
  simp only [FirstFit, FreeCandidate, not_and, and_assoc]

theorem noFit_iff {s : State} {c : SizeClass} {count : Nat} :
    NoFit s c count ↔ ∀ k, ¬ FreeCandidate s c count k := by
  simp only [NoFit, FreeCandidate, not_and]

theorem freeCandidate_inWord_iff {s : State} {n k : Nat} (hn : n ≤ 64) :
    FreeCandidate s .c4k n k ↔ (k / 64 < s.numWords ∧ k % 64 + n ≤ 64) ∧ FreeRun s k n := by
  simp only [FreeCandidate, Candidate, framesPer, Nat.mul_one, if_pos hn]

theorem freeCandidate_multiWord_iff {s : State} {n k : Nat} (hn : 64 < n) :
    FreeCandidate s .c4k n k ↔ (k % (64 * (n / 64)) = 0 ∧ k + n ≤ 64 * s.numWords) ∧ FreeRun s k n := by
  simp only [FreeCandidate, Candidate, framesPer, Nat.mul_one, if_neg (Nat.not_le.2 hn)]

theorem freeCandidate_group_iff {s : State} {c : SizeClass} {count k : Nat} (hc : c ≠ .c4k) :
    FreeCandidate s c count k ↔ (k % 64 = 0 ∧ k + count * framesPer c ≤ 64 * s.numWords ∧
      (s.base + 4096 * k) % bytesPer c = 0) ∧ FreeRun s k (count * framesPer c) := by
  cases c with
  | c4k => exact absurd rfl hc
  | c2m => rfl
  | c1g => rfl

/-- R105 in one word: the freecount test lets every word with a free window through. -/
theorem leastHit_word (s : State) {n w : Nat} (hpos : n ≠ 0) (hn : n ≤ 64) (hw : w < s.numWords) :
    LeastHit (fun k => FreeCandidate s .c4k n k ∧ k / 64 = w)
      (if n ≤ freecount (s.bm w) then (firstWindow (s.bm w) n).map (fun i => 64 * w + i) else none) := by
  have hcand : ∀ k, FreeCandidate s .c4k n k ∧ k / 64 = w →
      windowFree (s.bm w) n (k % 64) = true ∧ k % 64 + n ≤ 64 := by
    rintro k ⟨hk, rfl⟩
    obtain ⟨⟨-, hfit⟩, hfree⟩ := (freeCandidate_inWord_iff hn).1 hk
    rw [windowFree_bm_iff s _ n _ hfit, Nat.div_add_mod]
    exact ⟨hfree, hfit⟩
  split
  case isTrue =>
    refine (leastHit_find?_range (65 - n) _).map_add (64 * w) (fun k hk => by omega) fun i => ?_
    constructor
    · rintro ⟨hi, hfree⟩
      rw [windowFree_bm_iff s w n i (by omega)] at hfree
      exact ⟨(freeCandidate_inWord_iff hn).2 ⟨by omega, hfree⟩, by omega⟩
    · intro hk
      have hin : (64 * w + i) % 64 = i := by omega
      obtain ⟨hfree, hfit⟩ := hcand _ hk
      rw [hin] at hfree hfit
      exact ⟨by omega, hfree⟩
  case isFalse hcount =>
    intro k hk
    obtain ⟨hfree, hfit⟩ := hcand k hk
    exact hcount (le_freecount_of_windowFree hfit hfree)

/-- 41_frame_allocator R105: the words in ascending order, 64 frames each. -/
theorem leastHit_searchInWord (s : State) {n : Nat} (hpos : n ≠ 0) (hn : n ≤ 64) :
    LeastHit (FreeCandidate s .c4k n) (s.searchInWord n) := by
  refine (leastHit_findSome?_range 64 s.numWords fun w hw => leastHit_word s hpos hn hw).congr fun k =>
    and_iff_left_of_imp fun hk => ?_
  exact ((freeCandidate_inWord_iff hn).1 hk).1.1

/-- The turns of R106's loop are those whose run fits in the bitmap's words. -/
theorem lt_multiWordTurns_iff {words q need t : Nat} (hq : 0 < q) :
    t < multiWordTurns words q need ↔ t * q + need ≤ words := by
  refine ⟨multiWordTurns_bound hq, fun h => ?_⟩
  rw [multiWordTurns, if_pos (by omega), Nat.lt_succ_iff, Nat.le_div_iff_mul_le hq]
  omega

/-- The one start of a block that lies on the stride is the block's first frame. -/
theorem mod_eq_zero_and_div_eq_iff {d k t : Nat} (hd : 0 < d) : k % d = 0 ∧ k / d = t ↔ k = d * t := by
  constructor
  · rintro ⟨hmod, rfl⟩
    exact (Nat.mul_div_cancel' (Nat.dvd_of_mod_eq_zero hmod)).symm
  · rintro rfl
    exact ⟨Nat.mul_mod_right d t, Nat.mul_div_cancel_left t hd⟩

/-- 41_frame_allocator R106: the turns of the loop in ascending order, `64 * (n div 64)` frames each. -/
theorem leastHit_searchMultiWord (s : State) {n : Nat} (hn : 64 < n) :
    LeastHit (FreeCandidate s .c4k n) (s.searchMultiWord n) := by
  have hq : 0 < n / 64 := by omega
  have hturn : ∀ t, t < multiWordTurns s.numWords (n / 64) (n / 64 + if n % 64 > 0 then 1 else 0) ↔
      64 * (t * (n / 64)) + n ≤ 64 * s.numWords := fun t => by
    rw [lt_multiWordTurns_iff hq]
    split <;> omega
  have hstart : ∀ t k, k % (64 * (n / 64)) = 0 ∧ k / (64 * (n / 64)) = t ↔ k = 64 * (t * (n / 64)) := fun t k => by
    rw [mod_eq_zero_and_div_eq_iff (by omega), Nat.mul_assoc, Nat.mul_comm t]
  refine (leastHit_findSome?_range (64 * (n / 64)) _ fun t ht => leastHit_ite fun k => ?_).congr fun k =>
    and_iff_left_of_imp fun hk => ?_
  · rw [freeCandidate_multiWord_iff hn, runFits_iff_freeRun]
    constructor
    · rintro ⟨⟨⟨hmod, -⟩, hfree⟩, hdiv⟩
      obtain rfl := (hstart t k).1 ⟨hmod, hdiv⟩
      exact ⟨rfl, hfree⟩
    · rintro ⟨rfl, hfree⟩
      obtain ⟨hmod, hdiv⟩ := (hstart t _).2 rfl
      exact ⟨⟨⟨hmod, (hturn t).1 ht⟩, hfree⟩, hdiv⟩
  · obtain ⟨⟨hmod, hfit⟩, -⟩ := (freeCandidate_multiWord_iff hn).1 hk
    rwa [hturn, ← (hstart _ k).1 ⟨hmod, rfl⟩]

/-- 41_frame_allocator R107: the words in ascending order, of which only the aligned ones with room are candidates. -/
theorem leastHit_searchGroup (s : State) {c : SizeClass} {count : Nat} (hc : c ≠ .c4k) (hcount : count ≠ 0) :
    LeastHit (FreeCandidate s c count) (s.searchGroup c count) := by
  have hgroup := groupWords_eq c count hc (by omega)
  have hpos : 0 < groupWords c count := Nat.lt_of_lt_of_le Nat.zero_lt_one (Nat.le_max_left _ _)
  refine (leastHit_findSome?_range 64 _ fun w hw => leastHit_ite fun k => ?_).congr fun k =>
    and_iff_left_of_imp fun hk => ?_
  · rw [freeCandidate_group_iff hc, ← hgroup, Bool.and_eq_true, Bool.and_eq_true, wordsFree_iff_freeRun,
      State.groupAligned, beq_iff_eq, decide_eq_true_eq, show w * 262144 = 4096 * (64 * w) by omega]
    constructor
    · rintro ⟨⟨⟨hmod, hfit, haligned⟩, hfree⟩, hdiv⟩
      obtain rfl := (mod_eq_zero_and_div_eq_iff (by omega)).1 ⟨hmod, hdiv⟩
      exact ⟨rfl, ⟨haligned, by omega⟩, hfree⟩
    · rintro ⟨rfl, ⟨haligned, hfit⟩, hfree⟩
      exact ⟨⟨⟨by omega, by omega, haligned⟩, hfree⟩, by omega⟩
  · obtain ⟨⟨-, hfit, -⟩, -⟩ := (freeCandidate_group_iff hc).1 hk
    omega

/-! ## Every search is first fit -/

/-- 41_frame_allocator R108: each request takes the path whose candidates its class and count name. -/
theorem leastHit_search (s : State) (c : SizeClass) {count : Nat} (hcount : count ≠ 0) :
    LeastHit (FreeCandidate s c count) (s.search c count) := by
  cases c with
  | c4k =>
    rw [State.search]
    split
    next hle => exact leastHit_searchInWord s hcount hle
    next hgt => exact leastHit_searchMultiWord s (by omega)
  | c2m => exact leastHit_searchGroup s (by decide) hcount
  | c1g => exact leastHit_searchGroup s (by decide) hcount

theorem search_eq_some_iff_firstFit {s : State} {c : SizeClass} {count : Nat} (hcount : count ≠ 0) (k : Nat) :
    s.search c count = some k ↔ FirstFit s c count k := by
  rw [(leastHit_search s c hcount).eq_some_iff, firstFit_iff]

theorem search_eq_none_iff_noFit {s : State} {c : SizeClass} {count : Nat} (hcount : count ≠ 0) :
    s.search c count = none ↔ NoFit s c count := by
  rw [(leastHit_search s c hcount).eq_none_iff, noFit_iff]

end Sys2Proof.Machine
end

section
/-! FBA.ALLOC and FBA.DEALLOC (41_frame_allocator R108, R110 to R112, R117 to R120): what each check answers, what a
command that changes only bitmap bytes leaves alone, and the two statements. -/

namespace Sys2Proof.Machine

open Sys2Proof.Safety

/-! ## Commands that end with an error -/

/-- A command whose checks raise an error fails with it and does nothing else (60_exceptions R204). -/
theorem runPlan_failsWith {α : Type} {p : Plan α} {e : Error} (s : State) (go : α → State) (h : p = .raise e) :
    ∃ t, runPlan p s go = .next t ∧ FailsWith e s t := by
  subst h
  exact ⟨_, runPlan_raise e s go, raise_failsWith e s⟩

theorem exec_alloc_failsWith {c : SizeClass} {s : State} {e : Error} (h : planAlloc c s = .raise e) :
    ∃ t, exec c.allocInstr s = .next t ∧ FailsWith e s t := by
  rw [exec_alloc]
  exact runPlan_failsWith s _ h

theorem exec_dealloc_failsWith {c : SizeClass} {s : State} {e : Error} (h : planFree c s = .raise e) :
    ∃ t, exec c.deallocInstr s = .next t ∧ FailsWith e s t := by
  rw [exec_dealloc]
  exact runPlan_failsWith s _ h

/-! ## Commands that change bitmap bytes alone -/

/-- The words that hold frames `k .. k+n-1` are the only ones an update writes (41_frame_allocator R101, R102). -/
theorem updateWords_sameBytesOutside (s : State) {k n : Nat} (hn : n ≠ 0) (f : Nat → Word → Word) :
    SameBytesOutside (wordsLo s k) (wordsHi s k n) s (s.updateWords k n f) := by
  intro a (ha : a < s.base + 8 * (k / 64) ∨ s.base + 8 * ((k + n - 1) / 64 + 1) ≤ a)
  apply arenaByte_updateWords_outside
  have hword : k / 64 ≤ (k + n - 1) / 64 := Nat.div_le_div_right (by omega)
  rw [State.wordAddr, wordSpread, if_neg hn]
  omega

/-- `finish_ok` and the end of the perform step after a change of bytes: only RES, STATUS and those bytes differ. -/
theorem SameButBytes.finish {s u : State} (h : SameButBytes s u) (r0 r1 r2 r3 : Word) :
    Succeeded s (endPerform (finishOk r0 r1 r2 r3 u)) ∧ SameCfg s (endPerform (finishOk r0 r1 r2 r3 u)) ∧
      SameInputs s (endPerform (finishOk r0 r1 r2 r3 u)) :=
  ⟨by simp [Succeeded, h.status, Status.finishOk], ⟨h.cfgBase, h.cfgNFrames, h.cfgNWords, h.cfgBmFrames⟩,
    h.params, h.cmd, h.opa, h.opb, h.agenda, h.lastRead, h.portUser⟩

/-- A number below `2^64` is the value of the register it is written to (00_scope R10). -/
theorem toNat_ofNat_of_lt {x : Nat} (h : x < 2 ^ 64) : (BitVec.ofNat 64 x).toNat = x := by
  rw [BitVec.toNat_ofNat, Nat.mod_eq_of_lt h]

theorem framesPer_pos (c : SizeClass) : 0 < framesPer c := by
  cases c <;> decide

/-! ## The region under the invariant -/

/-- 10_state R27, 00_scope R7: after INIT the tracked frames lie in the address space, and the bitmap in the arena. -/
structure RegionFits (s : State) : Prop where
  frames_pos : 1 ≤ s.numFrames
  words_eq : s.numWords = (s.numFrames + 63) / 64
  base_mem : s.params.arenaBase ≤ s.base
  end_mem : s.base + 4096 * s.numFrames ≤ s.arenaEnd
  end_le : s.arenaEnd ≤ 2 ^ 64

theorem regionFits_of_inv {s : State} (hinv : Inv s) (hinit : s.status.initDone = true) : RegionFits s := by
  obtain ⟨⟨-, -, hend, -⟩, -, -, ⟨-, hconfig⟩, -⟩ := hinv
  obtain ⟨-, hF, hW, -, hbase, hregion⟩ := hconfig hinit
  exact ⟨hF, hW, hbase, hregion, hend⟩

/-- 20_memory R55: every word of a tracked frame lies in the arena. -/
theorem RegionFits.bitmapInArena {s : State} (h : RegionFits s) {m : Nat} (hm : m ≤ s.numWords) :
    s.bitmapInArena m = true := by
  obtain ⟨hF, hW, hbase, hregion, -⟩ := h
  rw [State.bitmapInArena, State.inArena, decide_eq_true_eq]
  rw [State.arenaEnd] at hregion
  omega

/-- 10_state R30: the padding bits are used, so a free run of the bitmap's words is a run of tracked frames. -/
theorem freeRun_le_numFrames {s : State} (hinv : Inv s) (hinit : s.status.initDone = true) {k n : Nat} (hn : n ≠ 0)
    (hfit : k + n ≤ 64 * s.numWords) (hfree : FreeRun s k n) : k + n ≤ s.numFrames := by
  obtain ⟨-, -, -, -, hbitmap, -⟩ := hinv
  obtain ⟨hused, -⟩ := hbitmap hinit
  by_contra hlt
  have hlast := hused (k + n - 1) (by omega) (.inr (by omega))
  rw [hfree (k + n - 1) (by omega) (by omega)] at hlast
  cases hlast

/-! ## FBA.ALLOC: its checks in order (41_frame_allocator R108) -/

theorem planAlloc_of_not_initDone {c : SizeClass} {s : State} (h : s.status.initDone = false) :
    planAlloc c s = .raise .notInitialized := if_pos h

section
variable {c : SizeClass} {s : State} (hinit : s.status.initDone = true)
include hinit

theorem planAlloc_of_zero (h : s.opaNat = 0) : planAlloc c s = .raise .invalidArgument := by
  simp [planAlloc, hinit, h]

theorem planAlloc_of_single (hc : c = .c1g) (h : s.opaNat = 1) : planAlloc c s = .raise .unsupportedOperation := by
  simp [planAlloc, hinit, hc, h]

/-- When a served request finds nothing; `planAlloc_go` says when it goes on. -/
theorem planAlloc_of_search_none (hserved : CountServed c s.opaNat) (hwords : s.bitmapInArena s.numWords = true)
    (hsearch : s.search c s.opaNat = none) : planAlloc c s = .raise .allocationExhausted := by
  obtain ⟨hcount, hsingle⟩ := hserved
  rw [planAlloc, if_neg (by simp [hinit]), if_neg hcount, if_neg hsingle, if_neg (by simp [hwords]), hsearch]

end

/-- What `FrameAlloc` does with the run its search found (41_frame_allocator R108, R110). -/
theorem applyAlloc_effect {s : State} {k n : Nat} (hn : n ≠ 0) (haddr : s.base + 4096 * k < 2 ^ 64)
    (hlen : n < 2 ^ 64) :
    Results (endPerform (applyAlloc s ⟨k, n⟩)) (s.base + 4096 * k) n 0 0 ∧
      Succeeded s (endPerform (applyAlloc s ⟨k, n⟩)) ∧
      (∀ j, (endPerform (applyAlloc s ⟨k, n⟩)).bit j = (s.bit j || decide (k ≤ j ∧ j < k + n))) ∧
      SameBytesOutside (wordsLo s k) (wordsHi s k n) s (endPerform (applyAlloc s ⟨k, n⟩)) ∧
      SameCfg s (endPerform (applyAlloc s ⟨k, n⟩)) ∧ SameInputs s (endPerform (applyAlloc s ⟨k, n⟩)) := by
  obtain ⟨hok, hcfg, hinputs⟩ := (setFrames_same s k n).finish (resultWord (s.runAddr ⟨k, n⟩)) (resultWord n) 0#64 0#64
  refine ⟨⟨resultWord_toNat haddr, resultWord_toNat hlen, rfl, rfl⟩, hok, fun j => ?_, fun a ha => ?_, hcfg, hinputs⟩
  · rw [endPerform_bit, applyAlloc, finishOk_bit, bit_setFrames]
  · rw [endPerform_arenaByte, applyAlloc, finishOk_arenaByte]
    exact updateWords_sameBytesOutside s hn _ a ha

/-! ## FBA.DEALLOC: its checks in order (41_frame_allocator R117) -/

theorem planFree_of_not_initDone {c : SizeClass} {s : State} (h : s.status.initDone = false) :
    planFree c s = .raise .notInitialized := if_pos h

section
variable {c : SizeClass} {s : State} (hinit : s.status.initDone = true)
include hinit

theorem planFree_of_zero (h : s.opbNat = 0) : planFree c s = .raise .invalidArgument := by
  simp [planFree, hinit, h]

theorem planFree_of_single (hc : c = .c1g) (h : s.opbNat = 1) : planFree c s = .raise .unsupportedOperation := by
  simp [planFree, hinit, hc, h]

theorem planFree_of_misaligned (hserved : CountServed c s.opbNat) (h : s.opaNat % bytesPer c ≠ 0) :
    planFree c s = .raise .misalignedAddress := by
  obtain ⟨hcount, hsingle⟩ := hserved
  rw [planFree, if_neg (by simp [hinit]), if_neg hcount, if_neg hsingle, if_pos h]

variable (hserved : CountServed c s.opbNat) (haligned : s.opaNat % bytesPer c = 0)
include hserved haligned

theorem planFree_of_outOfRange (h : s.opaNat < s.base ∨ s.freeIndex < s.bmFrames ∨
    s.numFrames < s.freeIndex + s.opbNat * framesPer c) : planFree c s = .raise .outOfRange := by
  obtain ⟨hcount, hsingle⟩ := hserved
  rw [planFree, if_neg (by simp [hinit]), if_neg hcount, if_neg hsingle, if_neg (not_not.2 haligned)]
  split
  next => rfl
  next hbase => rw [if_pos (h.resolve_left hbase)]

/-- When a range of tracked frames outside the bitmap is turned away; `planFree_go` says when it is freed. -/
theorem planFree_of_not_allUsed (hbase : s.base ≤ s.opaNat) (hlow : s.bmFrames ≤ s.freeIndex)
    (hhigh : s.freeIndex + s.opbNat * framesPer c ≤ s.numFrames)
    (hwords : s.bitmapInArena ((s.freeIndex + s.opbNat * framesPer c - 1) / 64 + 1) = true)
    (hfree : s.allUsed s.freeIndex (s.opbNat * framesPer c) = false) : planFree c s = .raise .doubleFree := by
  obtain ⟨hcount, hsingle⟩ := hserved
  rw [planFree, if_neg (by simp [hinit]), if_neg hcount, if_neg hsingle, if_neg (not_not.2 haligned),
    if_neg (by omega), if_neg (by omega), if_neg (by simp [hwords]), if_pos hfree]

end

/-- 41_frame_allocator R103, in the words of `UsedRun`. -/
theorem allUsed_iff_usedRun (s : State) (k n : Nat) : s.allUsed k n = true ↔ UsedRun s k n := by
  rw [allUsed_iff]
  exact ⟨fun h j h1 h2 => h j h2 h1, fun h j h1 h2 => h j h2 h1⟩

/-- What `FrameFree` does with a range that passed its checks (41_frame_allocator R117, R118). -/
theorem applyFree_effect {s : State} {k n : Nat} (hn : n ≠ 0) (hlen : n < 2 ^ 64) :
    Results (endPerform (applyFree s ⟨k, n⟩)) 0 n 0 0 ∧
      Succeeded s (endPerform (applyFree s ⟨k, n⟩)) ∧
      (∀ j, (endPerform (applyFree s ⟨k, n⟩)).bit j = (s.bit j && !decide (k ≤ j ∧ j < k + n))) ∧
      SameBytesOutside (wordsLo s k) (wordsHi s k n) s (endPerform (applyFree s ⟨k, n⟩)) ∧
      SameCfg s (endPerform (applyFree s ⟨k, n⟩)) ∧ SameInputs s (endPerform (applyFree s ⟨k, n⟩)) := by
  obtain ⟨hok, hcfg, hinputs⟩ := (clearFrames_same s k n).finish 0#64 (BitVec.ofNat 64 n) 0#64 0#64
  refine ⟨⟨rfl, toNat_ofNat_of_lt hlen, rfl, rfl⟩, hok, fun j => ?_, fun a ha => ?_, hcfg, hinputs⟩
  · rw [endPerform_bit, applyFree, finishOk_bit, bit_clearFrames]
  · rw [endPerform_arenaByte, applyFree, finishOk_arenaByte]
    exact updateWords_sameBytesOutside s hn _ a ha

/-! ## The statements -/

/-- Settles O20: each check answers as its lemma says, the search is first fit, and under the invariant the first fit
is a run of tracked frames, whose address fits RES0. -/
theorem allocEffect : Obligations.AllocEffect := by
  refine ⟨⟨rfl, rfl, rfl, rfl, rfl, rfl⟩, fun c s hinv => ⟨fun hnot => ?_, fun hinit => ⟨fun hzero => ?_,
    fun hc hone => ?_, fun hserved => ⟨fun hnofit => ?_, ?_⟩⟩⟩⟩
  · exact exec_alloc_failsWith (planAlloc_of_not_initDone hnot)
  · exact exec_alloc_failsWith (planAlloc_of_zero hinit hzero)
  · exact exec_alloc_failsWith (planAlloc_of_single hinit hc hone)
  all_goals
    have hregion := regionFits_of_inv hinv hinit
    have hwords := hregion.bitmapInArena le_rfl
  · have hnone := (search_eq_none_iff_noFit hserved.1).2 hnofit
    exact exec_alloc_failsWith (planAlloc_of_search_none hinit hserved hwords hnone)
  · rintro k n hfirst rfl
    obtain ⟨hcount, hsingle⟩ := hserved
    have hsearch := (search_eq_some_iff_firstFit hcount k).2 hfirst
    have hplan : planAlloc c s = .go ⟨k, s.opaNat * framesPer c⟩ :=
      planAlloc_go.2 ⟨hinit, hcount, hsingle, hwords, hsearch, rfl⟩
    have hn : s.opaNat * framesPer c ≠ 0 := Nat.mul_ne_zero hcount (framesPer_pos c).ne'
    obtain ⟨hfit, -⟩ := search_some hcount hsearch
    obtain ⟨-, hfree, -⟩ := hfirst
    have htracked := freeRun_le_numFrames hinv hinit hn hfit hfree
    obtain ⟨-, -, -, hend, hspace⟩ := hregion
    rw [exec_alloc, hplan]
    exact ⟨_, runPlan_go _ s _, applyAlloc_effect hn (by omega) (by omega)⟩

/-- Settles O25: each check answers as its lemma says, and under the invariant the words of tracked frames lie in the
arena. -/
theorem deallocEffect : Obligations.DeallocEffect := by
  refine ⟨⟨rfl, rfl, rfl, rfl, rfl, rfl⟩, ?_⟩
  rintro c s k n hinv rfl rfl
  refine ⟨fun hnot => ?_, fun hinit => ⟨fun hzero => ?_, fun hc hone => ?_, fun hserved => ⟨fun hmis => ?_,
    fun haligned => ⟨fun hout => ?_, fun hbase hlow hhigh => ?_⟩⟩⟩⟩
  · exact exec_dealloc_failsWith (planFree_of_not_initDone hnot)
  · exact exec_dealloc_failsWith (planFree_of_zero hinit hzero)
  · exact exec_dealloc_failsWith (planFree_of_single hinit hc hone)
  · exact exec_dealloc_failsWith (planFree_of_misaligned hinit hserved hmis)
  · exact exec_dealloc_failsWith (planFree_of_outOfRange hinit hserved haligned hout)
  · have hregion := regionFits_of_inv hinv hinit
    have hwords := hregion.bitmapInArena (m := (s.freeIndex + s.opbNat * framesPer c - 1) / 64 + 1) (by
      obtain ⟨hF, hW, -⟩ := hregion
      rw [State.freeIndex]
      omega)
    constructor
    · intro hfree
      rw [← allUsed_iff_usedRun, Bool.not_eq_true] at hfree
      exact exec_dealloc_failsWith
        (planFree_of_not_allUsed hinit hserved haligned hbase hlow hhigh hwords hfree)
    · intro hused
      obtain ⟨hcount, hsingle⟩ := hserved
      have hplan : planFree c s = .go ⟨s.freeIndex, s.opbNat * framesPer c⟩ := planFree_go.2
        ⟨hinit, hcount, hsingle, haligned, hbase, hlow, hhigh, hwords, (allUsed_iff_usedRun s _ _).2 hused, rfl⟩
      have hn : s.opbNat * framesPer c ≠ 0 := Nat.mul_ne_zero hcount (framesPer_pos c).ne'
      have hlen : s.opbNat * framesPer c < 2 ^ 64 := by
        have hframes : s.numFrames < 2 ^ 64 := s.cfgNFrames.isLt
        omega
      rw [exec_dealloc, hplan]
      exact ⟨_, runPlan_go _ s _, applyFree_effect hn hlen⟩

end Sys2Proof.Machine
end

section
/-! FBA.INIT (41_frame_allocator R100): what each check answers, the layout of a region, and the whole effect of an INIT
whose words no host has written in flight. -/

namespace Sys2Proof.Machine

open Sys2Proof.Safety

/-! ## The checks in order -/

theorem exec_init (s : State) : exec .fbaInit s = runPlan (planInit s) s (applyInit s) := rfl

theorem exec_init_failsWith {s : State} {e : Error} (h : planInit s = .raise e) :
    ∃ t, exec .fbaInit s = .next t ∧ FailsWith e s t := by
  rw [exec_init]
  exact runPlan_failsWith s _ h

theorem planInit_of_initDone {s : State} (h : s.status.initDone = true) :
    planInit s = .raise .alreadyInitialized := if_pos h

section
variable {s : State} (hinit : s.status.initDone = false)
include hinit

theorem planInit_of_short (h : s.opbNat < s.opaNat + 4096) : planInit s = .raise .invalidArgument := by
  rw [planInit, if_neg (by simp [hinit]), if_pos h]

variable (hlong : s.opaNat + 4096 ≤ s.opbNat)
include hlong

theorem planInit_of_misaligned (h : s.opaNat % 4096 ≠ 0) : planInit s = .raise .misalignedAddress := by
  rw [planInit, if_neg (by simp [hinit]), if_neg (Nat.not_lt.2 hlong), if_pos h]

theorem planInit_of_outOfRange (haligned : s.opaNat % 4096 = 0)
    (h : s.opaNat < s.params.arenaBase ∨ s.arenaEnd < s.opbNat) : planInit s = .raise .outOfRange := by
  rw [planInit, if_neg (by simp [hinit]), if_neg (Nat.not_lt.2 hlong), if_neg (not_not.2 haligned), if_pos h]

end

/-! ## The layout of a region -/

/-- A layout whose bitmap fits: the words track every frame, and the bitmap's frames are among them. -/
structure InitLayout.Fits (p : InitLayout) : Prop where
  start_lt : p.start < 2 ^ 64
  frames_lt : p.frames < 2 ^ 64
  frames_le : p.frames ≤ 64 * p.words
  words_le : p.words ≤ p.frames
  bmFrames_le : p.bmFrames ≤ p.frames

/-- 41_frame_allocator R100: a region of at least one frame has room for its bitmap. -/
theorem initLayout_fits {start stop : Nat} (hlong : start + 4096 ≤ stop) (hstop : stop < 2 ^ 64) :
    (initLayout start stop).Fits := by
  constructor <;> simp only [initLayout, ceilDiv] <;> omega

/-- No raced byte among INIT's words, in the words of `racedIn`. -/
theorem racedIn_eq_nil {s : State} {lo hi : Nat} (h : ∀ a ∈ s.raced, a < lo ∨ hi ≤ a) : s.racedIn lo hi = [] := by
  rw [State.racedIn, List.filter_eq_nil_iff]
  intro a ha
  have houtside := h a ha
  rw [decide_eq_true_eq]
  omega

/-! ## The effect -/

theorem setInitDone_bit (s : State) (j : Nat) : (setInitDone s).bit j = s.bit j := by
  exact bit_congr s (setInitDone s) j (bm_congr s (setInitDone s) _ rfl fun _ _ => rfl)

/-- INIT without races: the CFG registers and the bitmap, then INIT_DONE and `finish_ok`. -/
theorem applyInit_of_racedIn_nil {s : State} {p : InitLayout}
    (hraces : s.racedIn p.start (p.start + 8 * p.words) = []) :
    applyInit s p = finishOk (BitVec.ofNat 64 p.frames) (BitVec.ofNat 64 p.words) (BitVec.ofNat 64 p.bmFrames) 0#64
      (setInitDone (layBitmap p (writeCfg p s))) := by
  rw [applyInit, settleRaces_none s _ _ _ hraces]

section
variable {s : State} {p : InitLayout} (hp : p.Fits)
include hp

/-- The four CFG registers INIT writes, as numbers (10_state R27). -/
theorem applyInit_cfg : (applyInit s p).base = p.start ∧ (applyInit s p).numFrames = p.frames ∧
    (applyInit s p).numWords = p.words ∧ (applyInit s p).bmFrames = p.bmFrames := by
  obtain ⟨hstart, hF, -, hW, hB⟩ := hp
  have hsame := (layBitmap_same p (writeCfg p s)).trans (settleRaces_same s p.start (p.start + 8 * p.words) _)
  simp only [applyInit, setInitDone, State.base, State.numFrames, State.numWords, State.bmFrames, finishOk_cfgBase,
    finishOk_cfgNFrames, finishOk_cfgNWords, finishOk_cfgBmFrames, hsame.cfgBase, hsame.cfgNFrames, hsame.cfgNWords,
    hsame.cfgBmFrames, writeCfg_cfgBase, writeCfg_cfgNFrames, writeCfg_cfgNWords, writeCfg_cfgBmFrames]
  exact ⟨toNat_ofNat_of_lt hstart, toNat_ofNat_of_lt hF, toNat_ofNat_of_lt (by omega), toNat_ofNat_of_lt (by omega)⟩

/-- The results INIT reports. -/
theorem applyInit_results : Results (applyInit s p) p.frames p.words p.bmFrames 0 := by
  obtain ⟨-, hF, -, hW, hB⟩ := hp
  exact ⟨toNat_ofNat_of_lt hF, toNat_ofNat_of_lt (by omega), toNat_ofNat_of_lt (by omega), rfl⟩

theorem writeCfg_base : (writeCfg p s).base = p.start := toNat_ofNat_of_lt hp.start_lt

variable (hraces : s.racedIn p.start (p.start + 8 * p.words) = [])
include hraces

/-- The bits INIT leaves: the bitmap's own frames and the padding are used. -/
theorem applyInit_bit {j : Nat} (hj : j < 64 * p.words) :
    (applyInit s p).bit j = decide (j < p.bmFrames ∨ p.frames ≤ j) := by
  rw [applyInit_of_racedIn_nil hraces, finishOk_bit, setInitDone_bit,
    bit_layBitmap p _ (writeCfg_base hp) hp.frames_le j hj]

/-- INIT writes its words and no other byte. -/
theorem applyInit_sameBytesOutside : SameBytesOutside p.start (p.start + 8 * p.words) s (applyInit s p) := by
  intro a ha
  calc (applyInit s p).arenaByte a = (layBitmap p (writeCfg p s)).arenaByte a := by
        rw [applyInit_of_racedIn_nil hraces]
        rfl
    _ = (writeCfg p s).arenaByte a :=
        arenaByte_layBitmap_outside p _ (writeCfg_base hp) hp.frames_le (hp.bmFrames_le.trans hp.frames_le) a ha
    _ = s.arenaByte a := writeCfg_arenaByte p s a

end

theorem applyInit_sameInputs (s : State) (p : InitLayout) : SameInputs s (applyInit s p) := by
  have hsame := (layBitmap_same p (writeCfg p s)).trans (settleRaces_same s p.start (p.start + 8 * p.words) _)
  exact ⟨hsame.params, hsame.cmd, hsame.opa, hsame.opb, hsame.agenda, hsame.lastRead, hsame.portUser⟩

/-! ## The statement -/

/-- Settles O16: each check answers as its lemma says, and the region's layout fits, so every register holds its number
and the bitmap's words are the only bytes written. -/
theorem initEffect : Obligations.InitEffect := by
  refine ⟨rfl, fun s => ⟨fun hdone => ?_, fun hinit => ⟨fun hshort => ?_, fun hlong => ⟨fun hmis => ?_,
    fun haligned => ⟨fun hout => ?_, ?_⟩⟩⟩⟩⟩
  · exact exec_init_failsWith (planInit_of_initDone hdone)
  · exact exec_init_failsWith (planInit_of_short hinit hshort)
  · exact exec_init_failsWith (planInit_of_misaligned hinit hlong hmis)
  · exact exec_init_failsWith (planInit_of_outOfRange hinit hlong haligned hout)
  · rintro hlow hhigh F W B rfl rfl rfl hunraced
    have hp := initLayout_fits hlong s.opb.isLt
    have hraces : s.racedIn (initLayout s.opaNat s.opbNat).start
        ((initLayout s.opaNat s.opbNat).start + 8 * (initLayout s.opaNat s.opbNat).words) = [] :=
      racedIn_eq_nil hunraced
    have hplan := planInit_go.2 ⟨hinit, hlong, haligned, hlow, hhigh, rfl⟩
    obtain ⟨hbase, hframes, hwords, hbm⟩ := applyInit_cfg (s := s) hp
    refine ⟨hp.bmFrames_le, endPerform (applyInit s (initLayout s.opaNat s.opbNat)), ?_,
      applyInit_results (s := s) hp, hbase, hframes, hwords, hbm, ?_, fun j hj => ?_, ?_, ?_⟩
    · rw [exec_init, hplan, runPlan_go]
    · rw [endPerform_status, applyInit_status, Status.finishOk]
    · rw [endPerform_bit]
      exact applyInit_bit hp hraces hj
    · exact applyInit_sameBytesOutside hp hraces
    · exact applyInit_sameInputs s _

end Sys2Proof.Machine
end

section
/-! The page-table-entry codec (42_pte_codec R160 to R169): the fields and the kind of a word, the word PTE.ENC packs
bit by bit, and what the two commands answer and leave alone. -/

namespace Sys2Proof.Machine

open Sys2Proof.Safety

/-! ## The frame number (42_pte_codec R162) -/

theorem ptePpn_eq_extractLsb' (w : Word) : ptePpn w = w.extractLsb' 10 44 := by
  apply BitVec.eq_of_getLsbD_eq
  intro i hi
  simp only [ptePpn, ptePpn0, ptePpn1, ptePpn2, BitVec.getLsbD_append, BitVec.getLsbD_extractLsb']
  split
  next h0 => simp [h0, hi]
  next h0 =>
    split
    next h1 => simp [h1, hi, show 19 + (i - 9) = 10 + i by omega]
    next h1 => simp [hi, show i - 9 - 9 < 26 by omega, show 28 + (i - 9 - 9) = 10 + i by omega]

theorem ptePpn_toNat (w : Word) : (ptePpn w).toNat = w.toNat / 2 ^ 10 % 2 ^ 44 := by
  rw [ptePpn_eq_extractLsb', BitVec.extractLsb'_toNat, Nat.shiftRight_eq_div_pow]

/-- The sub-fields are the digits of the frame number, least significant first. -/
theorem ptePpn_toNat_eq_sum (w : Word) : (ptePpn w).toNat =
    (ptePpn2 w).toNat * 2 ^ 18 + (ptePpn1 w).toNat * 2 ^ 9 + (ptePpn0 w).toNat := by
  simp only [ptePpn_toNat, ptePpn0, ptePpn1, ptePpn2, BitVec.extractLsb'_toNat, Nat.shiftRight_eq_div_pow]
  omega

/-! ## The kind (42_pte_codec R164) -/

theorem pteRWX_eq_zero_iff (w : Word) :
    pteRWX w = 0#3 ↔ w.getLsbD 1 = false ∧ w.getLsbD 2 = false ∧ w.getLsbD 3 = false := by
  constructor
  · intro h
    have hbit (i : Nat) (hi : i < 3) : w.getLsbD (1 + i) = false := by
      simpa [pteRWX, hi] using congrArg (·.getLsbD i) h
    exact ⟨hbit 0 (by omega), hbit 1 (by omega), hbit 2 (by omega)⟩
  · rintro ⟨h1, h2, h3⟩
    apply BitVec.eq_of_getLsbD_eq
    intro i hi
    rw [pteRWX, BitVec.getLsbD_extractLsb']
    interval_cases i
    exacts [h1, h2, h3]

theorem pteKind_eq_empty_iff (w : Word) : pteKind w = .empty ↔ pteV w = false := by
  unfold pteKind
  split_ifs <;> simp_all

theorem pteKind_eq_leaf_iff (w : Word) : pteKind w = .leaf ↔ pteV w = true ∧ pteRWX w ≠ 0#3 := by
  unfold pteKind
  split_ifs <;> simp_all

theorem pteKind_eq_branch_iff (w : Word) : pteKind w = .branch ↔ pteV w = true ∧ pteRWX w = 0#3 := by
  unfold pteKind
  split_ifs <;> simp_all

/-- V, R, W and X are the four lowest bits. -/
theorem pteKind_congr {v w : Word} (h : v.extractLsb' 0 4 = w.extractLsb' 0 4) : pteKind v = pteKind w := by
  have hbit (i : Nat) (hi : i < 4) : v.getLsbD i = w.getLsbD i := by
    simpa [hi] using congrArg (·.getLsbD i) h
  have hV : pteV v = pteV w := hbit 0 (by omega)
  have hRWX : pteRWX v = pteRWX w := by
    apply BitVec.eq_of_getLsbD_eq
    intro i hi
    simp [pteRWX, hi, hbit (1 + i) (by omega)]
  rw [pteKind, pteKind, hV, hRWX]

/-- The code of a word's kind, from the word as a number. -/
theorem pteKind_code_toNat (w : Word) : (pteKind w).code.toNat =
    if w.toNat % 2 = 0 then 0 else if w.toNat / 2 % 8 ≠ 0 then 1 else 2 := by
  have hV : pteV w = false ↔ w.toNat % 2 = 0 := by
    simp [pteV, BitVec.getLsbD, Nat.testBit_zero]
  have hRWX : pteRWX w = 0#3 ↔ w.toNat / 2 % 8 = 0 := by
    rw [← BitVec.toNat_inj, pteRWX, BitVec.extractLsb'_toNat]
    rfl
  simp only [pteKind, ne_eq, hV, hRWX]
  split_ifs <;> rfl

/-! ## The reserved bits (42_pte_codec R163) -/

/-- The mask holds bits 9:8 and 63:54. -/
theorem rsvdMask_getLsbD :
    ∀ i < 64, rsvdMask.getLsbD i = true → (8 ≤ i ∧ i < 8 + 2) ∨ (54 ≤ i ∧ i < 54 + 10) := by
  decide

theorem getLsbD_of_extractLsb'_eq_zero {w : Word} {k n i : Nat} (h : w.extractLsb' k n = 0#n)
    (hi : k ≤ i ∧ i < k + n) : w.getLsbD i = false := by
  have hbit : (w.extractLsb' k n).getLsbD (i - k) = false := by rw [h, BitVec.getLsbD_zero]
  simpa [show i - k < n by omega, show k + (i - k) = i by omega] using hbit

/-- A word whose two reserved fields are 0 has no bit of the mask. -/
theorem and_rsvdMask_eq_zero {w : Word} (hlow : w.extractLsb' 8 2 = 0#2) (hhigh : w.extractLsb' 54 10 = 0#10) :
    w &&& rsvdMask = 0#64 := by
  apply BitVec.eq_of_getLsbD_eq
  intro i hi
  rw [BitVec.getLsbD_and, BitVec.getLsbD_zero, Bool.and_eq_false_iff]
  cases hmask : rsvdMask.getLsbD i with
  | false => exact .inr rfl
  | true =>
    rcases rsvdMask_getLsbD i hi hmask with hin | hin
    · exact .inl (getLsbD_of_extractLsb'_eq_zero hlow hin)
    · exact .inl (getLsbD_of_extractLsb'_eq_zero hhigh hin)

/-! ## The word PTE.ENC packs (42_pte_codec R166) -/

section
variable {flags ppn : Nat} (hflags : flags < 2 ^ 8) (hppn : ppn < 2 ^ 44)
include hflags

/-- Shifted into place, the frame number lies above the flags: the packed number is a sum. -/
theorem shiftLeft_or_flags : (ppn <<< 10) ||| flags = ppn * 2 ^ 10 + flags := by
  rw [← Nat.shiftLeft_add_eq_or_of_lt (by omega), Nat.shiftLeft_eq]

include hppn

/-- The packed number fits the word. -/
theorem ptePack_toNat : (ptePack flags ppn).toNat = (ppn <<< 10) ||| flags := by
  apply toNat_ofNat_of_lt
  rw [shiftLeft_or_flags hflags]
  omega

theorem ptePack_toNat_eq_sum : (ptePack flags ppn).toNat = ppn * 2 ^ 10 + flags := by
  rw [ptePack_toNat hflags hppn, shiftLeft_or_flags hflags]

theorem extractLsb'_ptePack_flags : (ptePack flags ppn).extractLsb' 0 8 = BitVec.ofNat 8 flags := by
  apply BitVec.eq_of_toNat_eq
  rw [BitVec.extractLsb'_toNat, ptePack_toNat_eq_sum hflags hppn, BitVec.toNat_ofNat]
  omega

/-- Every field of the packed frame number is that field of the number. -/
theorem extractLsb'_ptePack_ppn (k n : Nat) :
    (ptePack flags ppn).extractLsb' (10 + k) n = BitVec.ofNat n (ppn >>> k) := by
  apply BitVec.eq_of_toNat_eq
  rw [BitVec.extractLsb'_toNat, ptePack_toNat_eq_sum hflags hppn, BitVec.toNat_ofNat, Nat.shiftRight_add]
  congr 2
  rw [Nat.shiftRight_eq_div_pow]
  omega

theorem ptePack_and_rsvdMask : ptePack flags ppn &&& rsvdMask = 0#64 := by
  apply and_rsvdMask_eq_zero
  · apply BitVec.eq_of_toNat_eq
    rw [BitVec.extractLsb'_toNat, ptePack_toNat_eq_sum hflags hppn, Nat.shiftRight_eq_div_pow,
      BitVec.toNat_zero]
    omega
  · have hnone : ppn >>> 44 = 0 := by rw [Nat.shiftRight_eq_div_pow, Nat.div_eq_of_lt hppn]
    rw [extractLsb'_ptePack_ppn hflags hppn 44 10, hnone]

end

/-- The kind of the packed word is that of its flags. -/
theorem pteKind_ptePack_code_toNat {flags ppn : Nat} (hflags : flags < 2 ^ 8) (hppn : ppn < 2 ^ 44) :
    (pteKind (ptePack flags ppn)).code.toNat =
      if flags % 2 = 0 then 0 else if flags / 2 % 8 ≠ 0 then 1 else 2 := by
  rw [pteKind_code_toNat, ptePack_toNat_eq_sum hflags hppn, show (ppn * 2 ^ 10 + flags) % 2 = flags % 2 by omega,
    show (ppn * 2 ^ 10 + flags) / 2 % 8 = flags / 2 % 8 by omega]

/-! ## The checks and the end of a codec command (42_pte_codec R166 to R168) -/

theorem exec_pteEnc (s : State) : exec .pteEnc s = runPlan (planEnc s) s (applyEnc s) := rfl

theorem exec_pteDec (s : State) : exec .pteDec s = .next (endPerform (applyDec s s.opa)) := rfl

/-- When PTE.ENC is turned away; `planEnc_go` says when it packs. -/
theorem planEnc_of_outOfRange {s : State} (h : 2 ^ 8 ≤ s.opaNat ∨ 2 ^ 44 ≤ s.opbNat) :
    planEnc s = .raise .invalidArgument := by
  unfold planEnc
  split
  next => rfl
  next hflags => rw [if_pos (h.resolve_left hflags)]

/-- PTE.ENC has no other answer, and never a fault. -/
theorem planEnc_cases (s : State) :
    planEnc s = .raise .invalidArgument ∨ planEnc s = .go (ptePack s.opaNat s.opbNat) := by
  by_cases h : 2 ^ 8 ≤ s.opaNat ∨ 2 ^ 44 ≤ s.opbNat
  · exact .inl (planEnc_of_outOfRange h)
  · exact .inr (planEnc_go.2 ⟨by omega, by omega, rfl⟩)

/-- The checks read OPA and OPB alone. -/
theorem planEnc_congr {s s' : State} (hopa : s.opa = s'.opa) (hopb : s.opb = s'.opb) : planEnc s = planEnc s' := by
  rw [planEnc, planEnc, State.opaNat, State.opbNat, State.opaNat, State.opbNat, hopa, hopb]

/-- `finish_ok` and the end of the perform step alone change RES and STATUS (60_exceptions R203). -/
theorem endPerform_finishOk_frame (s : State) (r0 r1 r2 r3 : Word) :
    Succeeded s (endPerform (finishOk r0 r1 r2 r3 s)) ∧ SameBytes s (endPerform (finishOk r0 r1 r2 r3 s)) ∧
      SameCfg s (endPerform (finishOk r0 r1 r2 r3 s)) ∧ SameInputs s (endPerform (finishOk r0 r1 r2 r3 s)) := by
  obtain ⟨hok, hcfg, hinputs⟩ := (SameButBytes.refl s).finish r0 r1 r2 r3
  exact ⟨hok, fun a => by rw [endPerform_arenaByte, finishOk_arenaByte], hcfg, hinputs⟩

/-- Two commands that ended, one in `t` and one in `t'`, report the same results and the same error. -/
structure SameReport (t t' : State) : Prop where
  res0 : t.res0 = t'.res0
  res1 : t.res1 = t'.res1
  res2 : t.res2 = t'.res2
  res3 : t.res3 = t'.res3
  err : t.status.err = t'.status.err
  errcode : t.status.errcode = t'.status.errcode

/-- What `finish_ok` reports does not depend on the state it ends (60_exceptions R203). -/
theorem finishOk_sameReport (s s' : State) (r0 r1 r2 r3 : Word) :
    SameReport (endPerform (finishOk r0 r1 r2 r3 s)) (endPerform (finishOk r0 r1 r2 r3 s')) :=
  ⟨rfl, rfl, rfl, rfl, rfl, rfl⟩

/-- Nor does what `raise` reports (60_exceptions R204). -/
theorem raise_sameReport (s s' : State) (e : Error) :
    SameReport (endPerform (raise e s)) (endPerform (raise e s')) :=
  ⟨rfl, rfl, rfl, rfl, rfl, rfl⟩

/-- A codec command completes, changes RES and STATUS alone, and reports by its operands alone (42_pte_codec R168). -/
theorem exec_codec_sameReport {i : Instr} {s s' : State} (hi : i = .pteEnc ∨ i = .pteDec) (hopa : s.opa = s'.opa)
    (hopb : s.opb = s'.opb) : ∃ t t', exec i s = .next t ∧ exec i s' = .next t' ∧ SameReport t t' ∧
      SameBytes s t ∧ SameCfg s t ∧ SameInputs s t ∧ t.status.initDone = s.status.initDone := by
  rcases hi with rfl | rfl
  · rw [exec_pteEnc, exec_pteEnc, ← planEnc_congr hopa hopb]
    rcases planEnc_cases s with hplan | hplan <;> rw [hplan]
    · obtain ⟨-, -, hbytes, hcfg, hinputs, -⟩ := raise_failsWith .invalidArgument s
      exact ⟨_, _, runPlan_raise _ s _, runPlan_raise _ s' _, raise_sameReport s s' _, hbytes, hcfg, hinputs, rfl⟩
    · obtain ⟨-, hbytes, hcfg, hinputs⟩ := endPerform_finishOk_frame s _ _ _ _
      exact ⟨_, _, runPlan_go _ s _, runPlan_go _ s' _,
        finishOk_sameReport s s' _ _ _ _, hbytes, hcfg, hinputs, rfl⟩
  · obtain ⟨-, hbytes, hcfg, hinputs⟩ := endPerform_finishOk_frame s _ _ _ _
    rw [exec_pteDec, exec_pteDec, ← hopa]
    exact ⟨_, _, rfl, rfl, finishOk_sameReport s s' _ _ _ _, hbytes, hcfg, hinputs, rfl⟩

/-! ## The statements -/

/-- Settles O10: the two argument checks decide between `raise` and `finish_ok`, and the packed word holds the flags and
the frame number in their fields. -/
theorem pteEncEffect : Obligations.PteEncEffect := by
  refine ⟨rfl, fun s => ⟨fun hflags hppn => ?_, fun hout => ?_⟩⟩
  · rw [exec_pteEnc, planEnc_go.2 ⟨hflags, hppn, rfl⟩]
    exact ⟨_, runPlan_go _ s _,
      ⟨ptePack_toNat hflags hppn, pteKind_ptePack_code_toNat hflags hppn, rfl, rfl⟩,
      extractLsb'_ptePack_flags hflags hppn, extractLsb'_ptePack_ppn hflags hppn 0 9,
      extractLsb'_ptePack_ppn hflags hppn 9 9, extractLsb'_ptePack_ppn hflags hppn 18 26,
      ptePack_and_rsvdMask hflags hppn, endPerform_finishOk_frame s _ _ _ _⟩
  · rw [exec_pteEnc]
    exact runPlan_failsWith s _ (planEnc_of_outOfRange hout)

/-- Settles O11: PTE.DEC has no check, and each result is the number of its field. -/
theorem pteDecEffect : Obligations.PteDecEffect := by
  refine ⟨rfl, fun s => ⟨_, exec_pteDec s, ⟨?_, ?_, pteKind_code_toNat s.opa, rfl⟩,
    endPerform_finishOk_frame s _ _ _ _⟩⟩
  · rw [endPerform_res0, applyDec, finishOk_res0, BitVec.toNat_setWidth_of_le (by omega), pteFlags,
      BitVec.extractLsb'_toNat, Nat.shiftRight_zero, State.opaNat]
  · rw [endPerform_res1, applyDec, finishOk_res1, BitVec.toNat_setWidth_of_le (by omega), ptePpn_toNat, State.opaNat]

/-- Settles O15: the plan of PTE.ENC and the word of PTE.DEC are functions of the operands, and neither `finish_ok` nor
`raise` reports anything of the state it ends. -/
theorem codecDependsOnOperandsOnly : Obligations.CodecDependsOnOperandsOnly := by
  intro i s s' hi hopa hopb
  obtain ⟨t, t', ht, ht', ⟨h0, h1, h2, h3, herr, hcode⟩, hframe⟩ := exec_codec_sameReport hi hopa hopb
  exact ⟨t, t', ht, ht', h0, h1, h2, h3, herr, hcode, hframe⟩

/-- Settles O13: the sub-fields lie side by side in bits 53:10. -/
theorem ppnReassembly : Obligations.PpnReassembly := fun w =>
  ⟨rfl, rfl, rfl, ptePpn_toNat_eq_sum w, ptePpn_eq_extractLsb' w⟩

/-- Settles O14: each kind is a condition on V and on R, W, X, read as bits. -/
theorem pteKindClassification : Obligations.PteKindClassification := by
  intro w
  refine ⟨pteKind_eq_empty_iff w, ?_, ?_, fun v h => pteKind_congr h, rfl, rfl, rfl⟩
  · rw [pteKind_eq_leaf_iff, ne_eq, pteRWX_eq_zero_iff, not_and_or, not_and_or]
    simp only [Bool.not_eq_false, pteV]
  · rw [pteKind_eq_branch_iff, pteRWX_eq_zero_iff, pteV]

end Sys2Proof.Machine
end

section
/-! The error matrix (60_exceptions R201): an unraced INIT keeps the invariant, so the state after power-on and the
state after INIT of a 3GiB region have it, and between them they reach every error a command's row lists (O31). -/

namespace Sys2Proof.Machine

open Sys2Proof.Safety

/-! ## An INIT without races keeps the invariant -/

/-- No byte of `lo .. hi - 1` is unspecified; a span holds at least one byte. -/
def SpansAvoid (s : State) (lo hi : Nat) : Prop :=
  ∀ u ∈ s.unspecified, u.lo < u.hi ∧ (u.hi ≤ lo ∨ hi ≤ u.lo)

theorem zeroRange_spansAvoid {s : State} (hspans : Span.wf s.unspecified) {lo hi : Nat} (h : lo < hi) :
    SpansAvoid (s.zeroRange lo hi) lo hi := by
  intro u hu
  rw [zeroRange_unspecified] at hu
  obtain ⟨-, -, -, -, -, hne⟩ := Span.cut_part _ lo hi hspans.2 u hu
  exact ⟨hne, Span.cut_disjoint _ lo hi h u hu⟩

/-- Writing bytes only takes unspecified bytes away. -/
theorem SpansAvoid.writeBytes {s : State} {lo hi : Nat} (h : SpansAvoid s lo hi) (a : Nat) (bs : List Byte) :
    SpansAvoid (s.writeBytes a bs) lo hi := by
  intro u hu
  rw [writeBytes_unspecified] at hu
  obtain ⟨v, hv, hlo, hhi, -, hne⟩ := Span.cut_part _ _ _ (fun w hw => (h w hw).1) u hu
  obtain ⟨-, hout⟩ := h v hv
  exact ⟨hne, by omega⟩

theorem SpansAvoid.setFrames {s : State} {lo hi : Nat} (h : SpansAvoid s lo hi) (k n : Nat) :
    SpansAvoid (s.setFrames k n) lo hi := by
  rw [State.setFrames, State.updateWords]
  split
  next => exact h
  next => exact h.writeBytes _ _

theorem layBitmap_spansAvoid {p : InitLayout} {s : State} (hspans : Span.wf s.unspecified) (hwords : 0 < p.words) :
    SpansAvoid (layBitmap p s) p.start (p.start + 8 * p.words) :=
  ((zeroRange_spansAvoid hspans (by omega)).setFrames _ _).setFrames _ _

/-- 41_frame_allocator R100, 10_state R27: the registers of a region inside the arena. -/
theorem applyInit_configOk {s : State} {start stop : Nat} (hlong : start + 4096 ≤ stop) (haligned : start % 4096 = 0)
    (hlow : s.params.arenaBase ≤ start) (hhigh : stop ≤ s.arenaEnd) (hstop : stop < 2 ^ 64) :
    ConfigOk (endPerform (applyInit s (initLayout start stop))) := by
  obtain ⟨hbase, hframes, hwords, hbm⟩ := applyInit_cfg (s := s) (initLayout_fits hlong hstop)
  obtain ⟨hparams, -⟩ := applyInit_sameInputs s (initLayout start stop)
  constructor
  · simp [applyInit_status]
  · intro _
    simp only [State.arenaEnd, endPerform_base, endPerform_numFrames, endPerform_numWords, endPerform_bmFrames,
      endPerform_params, hbase, hframes, hwords, hbm, hparams]
    simp only [State.arenaEnd] at hhigh
    simp only [initLayout, ceilDiv]
    omega

section
variable {s : State} {p : InitLayout} (hp : p.Fits) (hraces : s.racedIn p.start (p.start + 8 * p.words) = [])
include hp hraces

theorem applyInit_memoryOk (h : MemoryOk s) (harena : s.inArena p.start (p.start + 8 * p.words) = true) :
    MemoryOk (endPerform (applyInit s p)) := by
  have hcfg : MemoryOk (writeCfg p s) := memoryOk_congr rfl rfl rfl le_rfl h
  have hlaid : MemoryOk (layBitmap p (writeCfg p s)) :=
    memoryOk_layBitmap hcfg p (writeCfg_base hp) hp.frames_le (hp.bmFrames_le.trans hp.frames_le) harena
  rw [applyInit_of_racedIn_nil hraces]
  exact memoryOk_congr rfl rfl rfl le_rfl hlaid

/-- 10_state R30 right after INIT. -/
theorem applyInit_bitmapOk (hspans : Span.wf s.unspecified) (hpos : 0 < p.words) :
    BitmapOk (endPerform (applyInit s p)) := by
  obtain ⟨hbase, hframes, hwords, hbm⟩ := applyInit_cfg (s := s) hp
  intro _
  simp only [endPerform_base, endPerform_numFrames, endPerform_numWords, endPerform_bmFrames, endPerform_bit,
    endPerform_unspecified, hbase, hframes, hwords, hbm]
  constructor
  · intro j hj hused
    rw [applyInit_bit hp hraces hj, decide_eq_true hused]
  · intro u hu
    rw [applyInit_of_racedIn_nil hraces] at hu
    exact (layBitmap_spansAvoid (s := writeCfg p s) hspans hpos u hu).2

end

/-- 10_state R27, R30, 41_frame_allocator R100: a successful INIT whose words no host has raced on keeps the
invariant. -/
theorem applyInit_inv {s : State} {p : InitLayout} (hinv : Inv s) (hplan : planInit s = .go p)
    (hraces : s.racedIn p.start (p.start + 8 * p.words) = []) : Inv (endPerform (applyInit s p)) := by
  obtain ⟨-, hlong, haligned, hlow, hhigh, rfl⟩ := planInit_go.1 hplan
  obtain ⟨hparams, hmem, -⟩ := hinv
  have hstop : s.opbNat < 2 ^ 64 := s.opb.isLt
  have hp := initLayout_fits hlong hstop
  have hpos : 0 < (initLayout s.opaNat s.opbNat).words := by
    simp only [initLayout, ceilDiv]
    omega
  have harena : s.inArena s.opaNat (s.opaNat + 8 * (initLayout s.opaNat s.opbNat).words) = true := by
    rw [State.arenaEnd] at hhigh
    rw [State.inArena, decide_eq_true_eq]
    simp only [initLayout, ceilDiv]
    omega
  refine ⟨?_, applyInit_memoryOk hp hraces hmem harena, ?_, applyInit_configOk hlong haligned hlow hhigh hstop,
    applyInit_bitmapOk hp hraces hmem.2.1 hpos, fun _ => rfl⟩
  · obtain ⟨hsame, -⟩ := applyInit_sameInputs s (initLayout s.opaNat s.opbNat)
    rw [ParamsOk, endPerform_params, hsame]
    exact hparams
  · simp [StatusOk, applyInit_status]

/-! ## Two states that between them reach every error -/

/-- A state with other operands. -/
def State.withOperands (s : State) (a b : Nat) : State := { s with opa := BitVec.ofNat 64 a, opb := BitVec.ofNat 64 b }

theorem withOperands_bit (s : State) (a b j : Nat) : (s.withOperands a b).bit j = s.bit j :=
  bit_congr s (s.withOperands a b) j (bm_congr s (s.withOperands a b) _ rfl fun _ _ => rfl)

theorem withOperands_inv {s : State} (h : Inv s) (a b : Nat) : Inv (s.withOperands a b) := by
  obtain ⟨hparams, hmem, hstatus, hconfig, hbitmap, hraces⟩ := h
  exact ⟨hparams, hmem, hstatus, hconfig,
    fun hinit => ⟨fun j hj hused => (withOperands_bit s a b j).trans ((hbitmap hinit).1 j hj hused), (hbitmap hinit).2⟩,
    hraces⟩

theorem resetWith_memoryOk {p : Config.Params} (hp : p.wf) : MemoryOk (State.resetWith p) := by
  obtain ⟨-, hlen, -⟩ := hp
  refine ⟨by simp [State.resetWith, Memory.wf], ?_, by simp [State.resetWith], by simp [State.resetWith, State.arenaEnd],
    by simp [State.resetWith]⟩
  simp only [State.resetWith, Span.wf, List.pairwise_singleton, List.mem_singleton, forall_eq, true_and]
  omega

/-- 10_state R40: power-on has the invariant, for all parameters 00_scope R7 allows. -/
theorem resetWith_inv {p : Config.Params} (hp : p.wf) : Inv (State.resetWith p) :=
  ⟨hp, resetWith_memoryOk hp, by simp [StatusOk, State.resetWith, Status.reset],
    by simp [ConfigOk, State.resetWith, Status.reset], (fun h => by cases h), fun _ => rfl⟩

/-- An arena of 3GiB from address 0: room for two 1GiB frames beside the one that holds the bitmap. -/
def arena3G : Config.Params := { arenaBase := 0, arenaLen := 0xC0000000, mmioBase := 0x100000000 }

/-- Power-on with operands for a command. -/
def powerOn (a b : Nat) : State := (State.resetWith arena3G).withOperands a b

theorem powerOn_inv (a b : Nat) : Inv (powerOn a b) := withOperands_inv (resetWith_inv (by decide)) a b

/-- The layout of the whole arena as one region. -/
def layout3G : InitLayout := { start := 0, frames := 786432, words := 12288, bmFrames := 24 }

theorem layout3G_fits : layout3G.Fits := by
  constructor <;> decide

theorem powerOn_racedIn (a b lo hi : Nat) : (powerOn a b).racedIn lo hi = [] := rfl

/-- The block after INIT of the whole arena, with operands for a command. -/
def afterInit3G (a b : Nat) : State :=
  (endPerform (applyInit (powerOn 0 0xC0000000) layout3G)).withOperands a b

theorem afterInit3G_inv (a b : Nat) : Inv (afterInit3G a b) := by
  have hplan : planInit (powerOn 0 0xC0000000) = .go layout3G := by decide
  exact withOperands_inv (applyInit_inv (powerOn_inv _ _) hplan (powerOn_racedIn _ _ _ _)) a b

theorem afterInit3G_initDone (a b : Nat) : (afterInit3G a b).status.initDone = true := by
  simp [afterInit3G, State.withOperands, applyInit_status]

theorem afterInit3G_cfg (a b : Nat) : (afterInit3G a b).base = 0 ∧ (afterInit3G a b).numFrames = 786432 ∧
    (afterInit3G a b).numWords = 12288 ∧ (afterInit3G a b).bmFrames = 24 :=
  applyInit_cfg layout3G_fits

/-- The bitmap's own 24 frames are used, every other frame is free. -/
theorem afterInit3G_bit (a b : Nat) {j : Nat} (h : j < 786432) : (afterInit3G a b).bit j = decide (j < 24) := by
  rw [afterInit3G, withOperands_bit, endPerform_bit, applyInit_bit layout3G_fits (powerOn_racedIn _ _ _ _) h]
  exact decide_eq_decide.2 (or_iff_left (Nat.not_le.2 h))

/-! ## Each error of a row is reached -/

theorem mem_classErrors_iff {c : SizeClass} {e : Error} :
    e ∈ classErrors c ↔ e = .notInitialized ∨ e = .invalidArgument ∨ (e = .unsupportedOperation ∧ c = .c1g) := by
  cases c <;> simp [classErrors, or_comm, or_left_comm]

/-- A request for more frames than the bitmap has bits finds nothing (41_frame_allocator R105 to R107). -/
theorem noFit_of_lt {s : State} {count : Nat} (c : SizeClass) (h : 64 * s.numWords < count) : NoFit s c count := by
  intro k hcandidate
  cases c
  case c4k =>
    simp only [Candidate] at hcandidate
    split at hcandidate <;> omega
  case c2m | c1g =>
    obtain ⟨-, hfit, -⟩ := hcandidate
    omega

theorem countServed_of_two_le (c : SizeClass) {n : Nat} (h : 2 ≤ n) : CountServed c n :=
  ⟨by omega, fun hsingle => by omega⟩

/-- The row of ALLOC, and with `planZalloc_of_raise` the row of ZALLOC: too many frames for the region, then each
earlier check. -/
theorem planAlloc_reaches {c : SizeClass} {e : Error} (he : e ∈ errorsOf c.allocInstr) :
    ∃ s, Inv s ∧ planAlloc c s = .raise e := by
  rw [errorsOf_allocInstr, List.mem_cons, mem_classErrors_iff] at he
  rcases he with rfl | rfl | rfl | ⟨rfl, rfl⟩
  · have hinit := afterInit3G_initDone 786433 0
    have hinv := afterInit3G_inv 786433 0
    obtain ⟨-, -, hwords, -⟩ := afterInit3G_cfg 786433 0
    have hcount : (afterInit3G 786433 0).opaNat = 786433 := rfl
    have hnofit : NoFit (afterInit3G 786433 0) c (afterInit3G 786433 0).opaNat := noFit_of_lt c (by omega)
    have hnone := (search_eq_none_iff_noFit (by omega)).2 hnofit
    exact ⟨_, hinv, planAlloc_of_search_none hinit (countServed_of_two_le c (by omega))
      ((regionFits_of_inv hinv hinit).bitmapInArena le_rfl) hnone⟩
  · exact ⟨powerOn 1 0, powerOn_inv _ _, planAlloc_of_not_initDone rfl⟩
  · exact ⟨afterInit3G 0 0, afterInit3G_inv _ _, planAlloc_of_zero (afterInit3G_initDone _ _) rfl⟩
  · exact ⟨afterInit3G 1 0, afterInit3G_inv _ _, planAlloc_of_single (afterInit3G_initDone _ _) rfl rfl⟩

/-- ZALLOC makes ALLOC's checks first (41_frame_allocator R114). -/
theorem planZalloc_of_raise {c : SizeClass} {s : State} {e : Error} (h : planAlloc c s = .raise e) :
    planZalloc c s = .raise e := by
  rw [planZalloc, h]

theorem exec_zalloc_failsWith {c : SizeClass} {s : State} {e : Error} (h : planZalloc c s = .raise e) :
    ∃ t, exec c.zallocInstr s = .next t ∧ FailsWith e s t := by
  rw [exec_zalloc]
  exact runPlan_failsWith s _ h

/-- The address of 1GiB is aligned to every class. -/
theorem gib_mod_bytesPer (c : SizeClass) : 0x40000000 % bytesPer c = 0 := by
  cases c <;> decide

theorem one_mod_bytesPer (c : SizeClass) : 1 % bytesPer c ≠ 0 := by
  cases c <;> decide

/-- The largest class is 1GiB (00_scope R5, R17). -/
theorem framesPer_le (c : SizeClass) : framesPer c ≤ 262144 := by
  cases c <;> decide

/-- Freeing two frames of any class from 1GiB on, which no command has allocated: only the last check fails
(41_frame_allocator R117). -/
theorem planFree_afterInit3G_doubleFree (c : SizeClass) :
    planFree c (afterInit3G 0x40000000 2) = .raise .doubleFree := by
  have hinit := afterInit3G_initDone 0x40000000 2
  have hregion := regionFits_of_inv (afterInit3G_inv 0x40000000 2) hinit
  obtain ⟨hbase, hframes, hwords, hbm⟩ := afterInit3G_cfg 0x40000000 2
  have haddr : (afterInit3G 0x40000000 2).opaNat = 0x40000000 := rfl
  have hcount : (afterInit3G 0x40000000 2).opbNat = 2 := rfl
  have hindex : (afterInit3G 0x40000000 2).freeIndex = 262144 := by rw [State.freeIndex, haddr, hbase]
  have hpos := framesPer_pos c
  have hle := framesPer_le c
  have hfree : (afterInit3G 0x40000000 2).allUsed 262144 (2 * framesPer c) = false := by
    rw [← Bool.not_eq_true, allUsed_iff_usedRun]
    intro hused
    have hbit := hused 262144 (by omega) le_rfl
    rw [afterInit3G_bit _ _ (by omega)] at hbit
    cases hbit
  have hserved := countServed_of_two_le c hcount.ge
  have haligned : (afterInit3G 0x40000000 2).opaNat % bytesPer c = 0 := haddr ▸ gib_mod_bytesPer c
  rw [← hindex, ← hcount] at hfree
  refine planFree_of_not_allUsed hinit hserved haligned (by omega) (by omega) (by rw [hindex, hcount]; omega)
    (hregion.bitmapInArena ?_) hfree
  rw [hindex, hcount]
  omega

/-- The row of DEALLOC. -/
theorem planFree_reaches {c : SizeClass} {e : Error} (he : e ∈ errorsOf c.deallocInstr) :
    ∃ s, Inv s ∧ planFree c s = .raise e := by
  have hserved := countServed_of_two_le c (n := 2) le_rfl
  rw [errorsOf_deallocInstr, List.mem_cons, List.mem_cons, List.mem_cons, mem_classErrors_iff] at he
  rcases he with rfl | rfl | rfl | rfl | rfl | ⟨rfl, rfl⟩
  · exact ⟨afterInit3G 0x40000000 2, afterInit3G_inv _ _, planFree_afterInit3G_doubleFree c⟩
  · exact ⟨afterInit3G 1 2, afterInit3G_inv _ _,
      planFree_of_misaligned (afterInit3G_initDone _ _) hserved (one_mod_bytesPer c)⟩
  · obtain ⟨hbase, -, -, hbm⟩ := afterInit3G_cfg 0 2
    have hindex : (afterInit3G 0 2).freeIndex < (afterInit3G 0 2).bmFrames := by
      rw [hbm, State.freeIndex, hbase]
      decide
    exact ⟨afterInit3G 0 2, afterInit3G_inv _ _,
      planFree_of_outOfRange (afterInit3G_initDone _ _) hserved (Nat.zero_mod _) (.inr (.inl hindex))⟩
  · exact ⟨powerOn 0 1, powerOn_inv _ _, planFree_of_not_initDone rfl⟩
  · exact ⟨afterInit3G 0 0, afterInit3G_inv _ _, planFree_of_zero (afterInit3G_initDone _ _) rfl⟩
  · exact ⟨afterInit3G 0 1, afterInit3G_inv _ _, planFree_of_single (afterInit3G_initDone _ _) rfl rfl⟩

/-- The row of INIT. -/
theorem planInit_reaches {e : Error} (he : e ∈ errorsOf .fbaInit) : ∃ s, Inv s ∧ planInit s = .raise e := by
  simp only [errorsOf, List.mem_cons, List.not_mem_nil, or_false] at he
  rcases he with rfl | rfl | rfl | rfl
  · exact ⟨powerOn 1 4097, powerOn_inv _ _, planInit_of_misaligned rfl (by decide) (by decide)⟩
  · exact ⟨afterInit3G 0 4096, afterInit3G_inv _ _, planInit_of_initDone (afterInit3G_initDone _ _)⟩
  · exact ⟨powerOn 0 0xC0000001, powerOn_inv _ _, planInit_of_outOfRange rfl (by decide) rfl (by decide)⟩
  · exact ⟨powerOn 0 4095, powerOn_inv _ _, planInit_of_short rfl (by decide)⟩

/-- 60_exceptions R201, the pairs the matrix lists: each is reached from a state with the invariant. -/
theorem exec_reaches {i : Instr} {e : Error} (he : e ∈ errorsOf i) :
    ∃ s, Inv s ∧ ∃ t, exec i s = .next t ∧ FailsWith e s t := by
  rcases instr_family_cases i with rfl | ⟨c, rfl⟩ | ⟨c, rfl⟩ | ⟨c, rfl⟩ | rfl | rfl
  · exact (planInit_reaches he).imp fun _ => And.imp_right exec_init_failsWith
  · exact (planAlloc_reaches he).imp fun _ => And.imp_right exec_alloc_failsWith
  · rw [errorsOf_zallocInstr] at he
    exact (planAlloc_reaches he).imp fun _ => And.imp_right fun h => exec_zalloc_failsWith (planZalloc_of_raise h)
  · exact (planFree_reaches he).imp fun _ => And.imp_right exec_dealloc_failsWith
  · obtain rfl : e = .invalidArgument := List.mem_singleton.1 he
    have hplan : planEnc (powerOn 256 0) = .raise .invalidArgument := planEnc_of_outOfRange (.inl (by decide))
    exact ⟨_, powerOn_inv _ _, exec_pteEnc _ ▸ runPlan_failsWith _ _ hplan⟩
  · cases he

/-! ## No other pair -/

theorem failsWith_code {e : Error} {s t : State} (h : FailsWith e s t) :
    t.status.err = true ∧ t.status.errcode = e.code := by
  obtain ⟨-, hstatus, -⟩ := h
  simp [hstatus]

/-- 60_exceptions R200: the codes tell the errors apart. -/
theorem Error.code_injective : Function.Injective Error.code := by
  intro a b h
  cases a <;> cases b <;> simp [Error.code] at h ⊢

/-- 60_exceptions R201: a command that ends with ERR ends with a code of its row. -/
theorem exec_err_mem_errorsOf {i : Instr} {s t : State} (h : exec i s = .next t) (herr : t.status.err = true) :
    ∃ e ∈ errorsOf i, t.status.errcode = e.code := by
  rcases exec_ends h with ⟨e, he, hfails⟩ | hok
  · obtain ⟨-, hcode⟩ := failsWith_code hfails
    exact ⟨e, he, hcode⟩
  · rw [hok.err] at herr
    cases herr

/-! ## The statement -/

/-- Settles O31: each listed pair is reached from power-on or from the state after INIT of 3GiB; the codes tell the
errors apart, so no other pair is possible; an illegal word in flight only raises IllegalCommand. -/
theorem errorMatrix : Obligations.ErrorMatrix := by
  refine ⟨fun i e => ⟨fun he => ?_, ?_⟩, fun i s t => exec_err_mem_errorsOf, ?_⟩
  · obtain ⟨s, hinv, t, hexec, hfails⟩ := exec_reaches he
    exact ⟨s, t, hinv, hexec, failsWith_code hfails⟩
  · rintro ⟨s, t, -, hexec, herr, hcode⟩
    obtain ⟨e', he', hcode'⟩ := exec_err_mem_errorsOf hexec herr
    rwa [Error.code_injective (hcode.symm.trans hcode')]
  · intro s t hbusy hagenda hillegal hstep
    rw [step_nil hagenda, engineMove_illegal hbusy hillegal] at hstep
    cases hstep
    exact failsWith_code (raise_failsWith .illegalCommand s)

end Sys2Proof.Machine
end

section
/-! A reset with a command in flight, and the statement of 70_reset_and_hazards R231 that follows (O54): a byte of a drawn
range holds a fresh free value, a later draw leaves it one, and `abandon` is at most two draws. -/

namespace Sys2Proof.Machine

/-! ## Fresh free values -/

/-- 70_reset_and_hazards R231, "A model treats those bytes as a draw": the byte at `a` in `t` is a free value of a draw
made since `s` (log 6). -/
def FreshByte (s t : State) (a : Nat) : Prop :=
  ∃ tag, s.draws ≤ tag ∧ tag < t.draws ∧ t.arenaByte a = Config.unspecifiedByte tag a

section
variable {s t : State} {a : Nat}

/-- In the drawn range every arena byte reads as that draw. -/
theorem arenaByte_drawRange_inside {lo hi : Nat} (hlo : t.params.arenaBase ≤ a) (hhi : a < t.arenaEnd)
    (ha : lo ≤ a ∧ a < hi) :
    (t.drawRange lo hi).arenaByte a = Config.unspecifiedByte t.draws a := by
  have hrange : max lo t.params.arenaBase ≤ a ∧ a < min hi (t.params.arenaBase + t.params.arenaLen) :=
    ⟨max_le ha.1 hlo, lt_min ha.2 hhi⟩
  simp only [State.arenaByte_eq, State.drawRange, Memory.find_clear, if_pos hrange, Option.getD_none,
    unlistedByte_add_inside _ _ _ _ _ hrange]

theorem drawRange_freshByte {lo hi : Nat} (hdraws : s.draws ≤ t.draws) (hlo : t.params.arenaBase ≤ a)
    (hhi : a < t.arenaEnd) (ha : lo ≤ a ∧ a < hi) : FreshByte s (t.drawRange lo hi) a :=
  ⟨t.draws, hdraws, Nat.lt_succ_self _, arenaByte_drawRange_inside hlo hhi ha⟩

/-- A further draw leaves a fresh byte fresh, whether it draws that byte again or not. -/
theorem FreshByte.drawRange (h : FreshByte s t a) (hlo : t.params.arenaBase ≤ a) (hhi : a < t.arenaEnd) (lo hi : Nat) :
    FreshByte s (t.drawRange lo hi) a := by
  obtain ⟨tag, hold, hnew, hbyte⟩ := h
  by_cases ha : lo ≤ a ∧ a < hi
  · exact drawRange_freshByte (hold.trans hnew.le) hlo hhi ha
  · exact ⟨tag, hold, hnew.trans (Nat.lt_succ_self _),
      (arenaByte_drawRange_outside t lo hi a (by omega)).trans hbyte⟩

end

/-! ## The command in flight -/

/-- The managed region `[BASE, BASE + 4096 * F)` (70_reset_and_hazards R231) holds `a`. -/
def InRegion (s : State) (a : Nat) : Prop := s.base ≤ a ∧ a < s.base + 4096 * s.numFrames

/-- The command in flight is an INIT whose operands `[OPA, OPB)` hold `a`. -/
def InInitRange (s : State) (a : Nat) : Prop := decode s.cmd = .ok .fbaInit ∧ s.opaNat ≤ a ∧ a < s.opbNat

theorem abandon_of_init {s : State} (h : decode s.cmd = .ok .fbaInit) :
    abandon s = (s.drawRange s.base (s.base + 4096 * s.numFrames)).drawRange s.opaNat s.opbNat := by
  simp [abandon, h]

theorem abandon_of_not_init {s : State} (h : decode s.cmd ≠ .ok .fbaInit) :
    abandon s = s.drawRange s.base (s.base + 4096 * s.numFrames) := by
  unfold abandon
  split
  · contradiction
  · rfl

section
variable {s : State} {a : Nat}

/-- 70_reset_and_hazards R231: the bytes the command in flight may have left at any value. -/
theorem abandon_freshByte (hlo : s.params.arenaBase ≤ a) (hhi : a < s.arenaEnd)
    (ha : InRegion s a ∨ InInitRange s a) : FreshByte s (abandon s) a := by
  have hregion : InRegion s a → FreshByte s (s.drawRange s.base (s.base + 4096 * s.numFrames)) a :=
    drawRange_freshByte le_rfl hlo hhi
  by_cases hinit : decode s.cmd = .ok .fbaInit
  · rw [abandon_of_init hinit]
    rcases ha with ha | ⟨-, ha⟩
    · exact (hregion ha).drawRange hlo hhi _ _
    · exact drawRange_freshByte (Nat.le_succ _) hlo hhi ha
  · rw [abandon_of_not_init hinit]
    exact hregion (ha.resolve_right fun h => hinit h.1)

/-- 70_reset_and_hazards R231: "All other arena bytes are unchanged." -/
theorem abandon_arenaByte_outside (hregion : ¬ InRegion s a) (hrange : ¬ InInitRange s a) :
    (abandon s).arenaByte a = s.arenaByte a := by
  have hfirst : (s.drawRange s.base (s.base + 4096 * s.numFrames)).arenaByte a = s.arenaByte a :=
    arenaByte_drawRange_outside s _ _ a (by unfold InRegion at hregion; omega)
  by_cases hinit : decode s.cmd = .ok .fbaInit
  · have hoperands : a < s.opaNat ∨ s.opbNat ≤ a := by
      simp only [InInitRange, hinit, true_and] at hrange
      omega
    rw [abandon_of_init hinit, arenaByte_drawRange_outside _ _ _ a hoperands, hfirst]
  · rw [abandon_of_not_init hinit, hfirst]

end

theorem blockReset_of_busy {s : State} (h : s.status.busy = true) : blockReset s = clearRegisters (abandon s) := by
  simp [blockReset, h]

/-! ## The statement -/

/-- Settles O54: such a reset clears the registers of the abandoned state and leaves its arena bytes as they are. -/
theorem resetInFlightDrawsRegion : Obligations.ResetInFlightDrawsRegion := by
  intro s rest hbusy ha
  have hreset : step s = .next (clearRegisters (abandon (s.withAgenda rest))) := by
    rw [step_reset ha, blockReset_of_busy (by simpa using hbusy)]
  exact ⟨_, hreset, clearRegisters_readReg _, fun _ hlo hhi =>
    ⟨abandon_freshByte (s := s.withAgenda rest) hlo hhi, abandon_arenaByte_outside (s := s.withAgenda rest)⟩⟩

end Sys2Proof.Machine
end

section
/-! The encoding and the STATUS word (30_encoding R81, R86; 10_state R24), the first fit of the search paths, and the
bytes of a bitmap word (O1, O2, O18, O19, O29, O34). -/

namespace Sys2Proof.Machine

open Sys2Proof.Safety

/-! ## Encoding -/

/-- Settles O2: the decoder inverts the encoder on every command, and a word that decodes is put together from the
fields its command fixes. -/
theorem decodeEncodeAgree : Obligations.DecodeEncodeAgree :=
  ⟨fun i _ => decode_encode i, fun _ _ => eq_encode_of_decode⟩

/-- Settles O1: each word of the opcode map is the encoding of its command. -/
theorem commandWordsDecode : Obligations.CommandWordsDecode :=
  ⟨decode_encode .fbaInit, decode_encode .fbaAlloc4K, decode_encode .fbaAlloc2M, decode_encode .fbaAlloc1G,
    decode_encode .fbaZalloc4K, decode_encode .fbaZalloc2M, decode_encode .fbaZalloc1G, decode_encode .fbaDealloc4K,
    decode_encode .fbaDealloc2M, decode_encode .fbaDealloc1G, decode_encode .pteEnc, decode_encode .pteDec⟩

/-! ## The search paths -/

/-- Settles O18: every path answers the least candidate whose frames are free. -/
theorem searchIsFirstFit : Obligations.SearchIsFirstFit := fun _ _ _ hcount =>
  ⟨search_eq_some_iff_firstFit hcount, search_eq_none_iff_noFit hcount⟩

/-- Settles O19: a free window is `n` of the bits that `freecount` counts. -/
theorem freecountTestIsRedundant : Obligations.FreecountTestIsRedundant := fun _ _ _ => le_freecount_of_windowFree

/-! ## Little-endian reads (20_memory R54) -/

/-- A read of `m + n` bytes: the first `m` are the low digits. -/
theorem memRead_add (s : State) (a m n : Nat) :
    s.memRead a (m + n) = s.memRead a m + 256 ^ m * s.memRead (a + m) n := by
  induction m generalizing a with
  | zero => simp [State.memRead]
  | succ m ih =>
    rw [show m + 1 + n = m + n + 1 by omega, State.memRead, ih, State.memRead, show a + 1 + m = a + (m + 1) by omega]
    ring

theorem memRead_lt (s : State) (a n : Nat) : s.memRead a n < 256 ^ n := by
  induction n generalizing a with
  | zero => simp [State.memRead]
  | succ n ih =>
    have hbyte := (s.arenaByte a).isLt
    have hrest := ih (a + 1)
    rw [State.memRead, pow_succ']
    omega

/-- A bitmap word is its eight bytes read as one number. -/
theorem bm_toNat (s : State) (w : Nat) : (s.bm w).toNat = s.memRead (s.base + 8 * w) 8 :=
  toNat_ofNat_of_lt (memRead_lt s _ 8)

/-- Byte `k` of a bitmap word, bit by bit. -/
theorem arenaByte_bm (s : State) (w : Nat) {k : Nat} (hk : k < 8) :
    s.arenaByte (s.base + 8 * w + k) = (s.bm w).extractLsb' (8 * k) 8 := by
  apply BitVec.eq_of_getLsbD_eq
  intro b hb
  rw [BitVec.getLsbD_extractLsb', bm_getLsbD s w _ (by omega), State.wordAddr, show (8 * k + b) / 8 = k by omega,
    show (8 * k + b) % 8 = b by omega]
  simp [hb]

/-- Settles O29: the word is the number of its eight bytes, of which four are its low half. -/
theorem bitmapIsLittleEndian : Obligations.BitmapIsLittleEndian := by
  intro s w
  refine ⟨fun k hk => arenaByte_bm s w hk, ?_⟩
  have hlow := memRead_lt s (s.base + 8 * w) 4
  rw [bm_toNat, memRead_add s _ 4 4]
  omega

/-! ## The STATUS word (10_state R24) -/

/-- Settles O34: the fields lie where the concatenation puts them. -/
theorem statusLayout : Obligations.StatusLayout := by
  rintro ⟨busy, done, err, initDone, fatal, overrun, errcode⟩
  revert busy done err initDone fatal overrun errcode
  decide

end Sys2Proof.Machine
end

section
/-! The moves: one inductive predicate for what a host access can do and one for what a step can do, and the statements
about the host's side of the machine that follow from them (O5, O32, O36, O37, O39 to O41, O43 to O50, O17). -/

namespace Sys2Proof.Machine

open Sys2Proof.Safety

/-! ## What a host access can do -/

/-- The slot of an access that has one, and where that slot lies (10_state R20, R36). -/
theorem slotOf_eq_some {s : State} {addr width : Nat} {r : Reg} (h : s.slotOf addr width = some r) :
    ∃ index < 16, addr = s.params.mmioBase + 8 * index ∧ width = 8 ∧ slotAt index = r := by
  unfold State.slotOf at h
  split at h
  case isFalse => cases h
  case isTrue hin =>
    obtain ⟨hwidth, hlow, hhigh, haligned⟩ := hin
    exact ⟨(addr - s.params.mmioBase) / 8, by omega, by omega, hwidth, Option.some.inj h⟩

/-- The three slots that take a host's write lie at indexes 0, 1 and 2. -/
theorem slotAt_index {index : Nat} :
    (slotAt index = .cmd → index = 0) ∧ (slotAt index = .opa → index = 1) ∧ (slotAt index = .opb → index = 2) := by
  by_cases h : 3 ≤ index
  · obtain ⟨hcmd, hopa, hopb⟩ := slotAt_readOnly h
    exact ⟨fun e => absurd e hcmd, fun e => absurd e hopa, fun e => absurd e hopb⟩
  · interval_cases index <;> simp [slotAt]

/-- What an access of agent `g` that is not refused does to the state (10_state R28, R33 to R35; 20_memory R57, R59). -/
inductive HostEffect (g : Nat) (s : State) : Access → State → Prop
  | registerRead (addr width : Nat) (v : Word) (port : Option PortUse) :
      HostEffect g s (.regRead addr width) (s.returnRegister v port)
  | ignored (addr width : Nat) (v : Word) : HostEffect g s (.regWrite addr width v) s
  | dropped (addr width : Nat) (v : Word) (busy : s.status.busy = true) :
      HostEffect g s (.regWrite addr width v) s.noteOverrun
  | command (v : Word) (idle : s.status.busy = false) :
      HostEffect g s (.regWrite s.params.mmioBase 8 v) ((acceptCommand v s).holdPort g true)
  | operandA (v : Word) (idle : s.status.busy = false) :
      HostEffect g s (.regWrite (s.params.mmioBase + 0x08) 8 v) ((s.takeOpa v).holdPort g false)
  | operandB (v : Word) (idle : s.status.busy = false) :
      HostEffect g s (.regWrite (s.params.mmioBase + 0x10) 8 v) ((s.takeOpb v).holdPort g false)
  | arenaRead (addr len : Nat) (bytes : List Byte) (draws : Nat) (le : s.draws ≤ draws) :
      HostEffect g s (.arenaRead addr len) (s.returnBytes bytes draws)
  | arenaWrite (addr : Nat) (bytes : List Byte) (inside : s.inArena addr (addr + bytes.length) = true)
      (off : s.hitsBitmap addr (addr + bytes.length) = false) :
      HostEffect g s (.arenaWrite addr bytes) ((s.recordRaces addr bytes.length).writeBytes addr bytes)

/-- The writes to CMD, OPA and OPB are port writes (10_state R33, R34). -/
theorem writeReg_cmd (g : Nat) (v : Word) (s : State) :
    writeReg g .cmd v s = portWrite g true (acceptCommand v) s := rfl

theorem writeReg_opa (g : Nat) (v : Word) (s : State) :
    writeReg g .opa v s = portWrite g false (fun t => t.takeOpa v) s := rfl

theorem writeReg_opb (g : Nat) (v : Word) (s : State) :
    writeReg g .opb v s = portWrite g false (fun t => t.takeOpb v) s := rfl

theorem writeReg_effect {g addr width : Nat} {r : Reg} {v : Word} {s t : State} (hr : s.slotOf addr width = some r)
    (h : writeReg g r v s = .next t) : HostEffect g s (.regWrite addr width v) t := by
  obtain ⟨index, -, rfl, rfl, hindex⟩ := slotOf_eq_some hr
  obtain ⟨hcmd, hopa, hopb⟩ := slotAt_index (index := index)
  cases r
  case cmd =>
    obtain rfl := hcmd hindex
    rw [writeReg_cmd] at h
    rcases portWrite_next h with ⟨hbusy, rfl⟩ | ⟨hidle, -, rfl⟩
    · exact .dropped _ _ v hbusy
    · exact .command v hidle
  case opa =>
    obtain rfl := hopa hindex
    rw [writeReg_opa] at h
    rcases portWrite_next h with ⟨hbusy, rfl⟩ | ⟨hidle, -, rfl⟩
    · exact .dropped _ _ v hbusy
    · exact .operandA v hidle
  case opb =>
    obtain rfl := hopb hindex
    rw [writeReg_opb] at h
    rcases portWrite_next h with ⟨hbusy, rfl⟩ | ⟨hidle, -, rfl⟩
    · exact .dropped _ _ v hbusy
    · exact .operandB v hidle
  all_goals
    cases h
    exact .ignored _ _ v

theorem regAccess_effect {g addr width : Nat} {w : Option Word} {s t : State}
    (h : regAccess g addr width w s = .next t) :
    HostEffect g s (w.elim (.regRead addr width) (.regWrite addr width)) t := by
  unfold regAccess at h
  split at h
  next => cases h
  next r hr =>
    cases w with
    | none =>
      cases h
      exact .registerRead _ _ _ _
    | some v => exact writeReg_effect hr h

theorem hostAccess_effect {g : Nat} {a : Access} {s t : State} (h : hostAccess g a s = .next t) :
    HostEffect g s a t := by
  cases a with
  | regRead addr width => exact regAccess_effect (w := none) h
  | regWrite addr width v => exact regAccess_effect (w := some v) h
  | arenaRead addr len =>
    obtain ⟨-, bytes, draws, hle, rfl⟩ := arenaRead_next h
    exact .arenaRead _ _ _ _ hle
  | arenaWrite addr bytes =>
    obtain ⟨hin, hoff, rfl⟩ := arenaWrite_next h
    exact .arenaWrite _ _ hin hoff

/-! ## What a step can do -/

/-- What a step that answers a next state does: the engine's move with nothing in flight, its perform step, a reset, or
one host access, each in the state from which the move has been taken off the agenda (log 7). -/
inductive StepEffect (s : State) : State → Prop
  | idle (rest : List Move) : StepEffect s (s.withAgenda rest)
  | perform (rest : List Move) (t : State) (busy : s.status.busy = true)
      (turn : s.agenda = [] ∨ s.agenda.head? = some .engine)
      (perform : perform (s.withAgenda rest) = .next t) : StepEffect s t
  | reset (rest : List Move) (turn : s.agenda.head? = some .reset) : StepEffect s (blockReset (s.withAgenda rest))
  | host (g : Nat) (a : Access) (rest : List Move) (t : State) (turn : s.agenda = .host g a :: rest)
      (effect : HostEffect g (s.withAgenda rest) a t) : StepEffect s t

theorem engineMove_effect {s t : State} {rest : List Move} (hturn : s.agenda = [] ∨ s.agenda.head? = some .engine)
    (h : engineMove (s.withAgenda rest) = .next t) : StepEffect s t := by
  unfold engineMove at h
  split at h
  next hbusy => exact .perform rest t hbusy hturn h
  next =>
    cases h
    exact .idle rest

theorem step_effect {s t : State} (h : step s = .next t) : StepEffect s t := by
  cases ha : s.agenda with
  | nil =>
    rw [step_nil ha, ← withAgenda_self s] at h
    exact engineMove_effect (.inl ha) h
  | cons m rest =>
    cases m with
    | engine =>
      rw [step_engine ha] at h
      exact engineMove_effect (.inr (by simp [ha])) h
    | reset =>
      rw [step_reset ha] at h
      cases h
      exact .reset rest (by simp [ha])
    | host g a =>
      rw [step_host ha] at h
      exact .host g a rest t ha (hostAccess_effect h)

/-! ## What a perform step leaves alone -/

/-- What every command leaves alone: the parameters, the inputs and the fields of the world outside the block. -/
theorem exec_sameInputs {i : Instr} {s t : State} (h : exec i s = .next t) : SameInputs s t := by
  rcases exec_next h with ⟨e, rfl⟩ | ⟨-, p, -, rfl⟩ | ⟨c, r, -, -, rfl⟩ | ⟨c, r, -, -, rfl⟩ | ⟨c, r, -, -, rfl⟩ |
    ⟨-, w, -, rfl⟩ | ⟨-, rfl⟩
  · exact ⟨rfl, rfl, rfl, rfl, rfl, rfl, rfl⟩
  · exact applyInit_sameInputs s p
  · exact ((setFrames_same s r.k r.n).finish _ _ _ _).2.2
  · exact ((((setFrames_same s r.k r.n).trans (zeroRange_same _ _ _)).trans (settleRaces_same s _ _ _)).finish
      _ _ _ _).2.2
  · exact ((clearFrames_same s r.k r.n).finish _ _ _ _).2.2
  · exact ((SameButBytes.refl s).finish _ _ _ _).2.2
  · exact ((SameButBytes.refl s).finish _ _ _ _).2.2

/-- What every command but a first INIT leaves alone (10_state R27). -/
theorem exec_sameCfg {i : Instr} {s t : State} (h : exec i s = .next t) :
    (SameCfg s t ∧ t.status.initDone = s.status.initDone) ∨
      (i = .fbaInit ∧ s.status.initDone = false ∧ t.status.initDone = true) := by
  have bytes : ∀ {u : State} (r0 r1 r2 r3 : Word), SameButBytes s u →
      SameCfg s (endPerform (finishOk r0 r1 r2 r3 u)) ∧
        (endPerform (finishOk r0 r1 r2 r3 u)).status.initDone = s.status.initDone := fun r0 r1 r2 r3 hsame =>
    ⟨(hsame.finish r0 r1 r2 r3).2.1, by simp [hsame.status]⟩
  rcases exec_next h with ⟨e, rfl⟩ | ⟨rfl, p, hplan, rfl⟩ | ⟨c, r, -, -, rfl⟩ | ⟨c, r, -, -, rfl⟩ | ⟨c, r, -, -, rfl⟩ |
    ⟨-, w, -, rfl⟩ | ⟨-, rfl⟩
  · exact .inl ⟨⟨rfl, rfl, rfl, rfl⟩, rfl⟩
  · obtain ⟨hinit, -⟩ := planInit_go.1 hplan
    exact .inr ⟨rfl, hinit, by simp [applyInit_status]⟩
  · exact .inl (bytes _ _ _ _ (setFrames_same s r.k r.n))
  · exact .inl (bytes _ _ _ _
      (((setFrames_same s r.k r.n).trans (zeroRange_same _ _ _)).trans (settleRaces_same s _ _ _)))
  · exact .inl (bytes _ _ _ _ (clearFrames_same s r.k r.n))
  · exact .inl (bytes _ _ _ _ (SameButBytes.refl s))
  · exact .inl (bytes _ _ _ _ (SameButBytes.refl s))

/-- The engine's move in flight raises IllegalCommand or performs the command that CMD decodes to. -/
theorem perform_sameInputs {s t : State} (h : perform s = .next t) : SameInputs s t := by
  rcases perform_next h with ⟨-, -, rfl⟩ | ⟨i, -, hexec⟩
  · exact ⟨rfl, rfl, rfl, rfl, rfl, rfl, rfl⟩
  · exact exec_sameInputs hexec

theorem perform_sameCfg {s t : State} (h : perform s = .next t) :
    (SameCfg s t ∧ t.status.initDone = s.status.initDone) ∨
      (decode s.cmd = .ok .fbaInit ∧ s.status.initDone = false ∧ t.status.initDone = true) := by
  rcases perform_next h with ⟨-, -, rfl⟩ | ⟨i, hi, hexec⟩
  · exact .inl ⟨⟨rfl, rfl, rfl, rfl⟩, rfl⟩
  · exact (exec_sameCfg hexec).imp_right fun ⟨hinit, hflags⟩ => ⟨hinit ▸ hi, hflags⟩

/-- The flags after the perform step: DONE 1 and BUSY 0; FATAL and OVERRUN are never cleared (60_exceptions R205). -/
theorem perform_flags {s t : State} (h : perform s = .next t) :
    t.status.done = true ∧ t.status.busy = false ∧ (s.status.fatal = true → t.status.fatal = true) ∧
      t.status.overrun = s.status.overrun := by
  rcases perform_ends h with ⟨e, -, hstatus, -⟩ | hok
  · simp +contextual [hstatus]
  · exact ⟨hok.done, hok.busy, fun hfatal => hok.fatal.trans hfatal, hok.overrun⟩

/-! ## The engine's move (20_memory R52) -/

theorem engineMove_of_idle {s : State} (h : s.status.busy = false) : engineMove s = .next s := by
  simp [engineMove, h]

theorem engineMove_of_decode {s : State} {i : Instr} (hbusy : s.status.busy = true) (hi : decode s.cmd = .ok i) :
    engineMove s = exec i s := by
  simp [engineMove, hbusy, perform, hi]

theorem exec_busy {i : Instr} {s t : State} (h : exec i s = .next t) : t.status.busy = false := by
  rcases exec_ends h with ⟨e, -, hfails⟩ | hok
  · exact (failsWith_flags hfails).2.1
  · exact hok.busy

/-- Settles O5: with an empty agenda or the engine's move at its head the step is `engineMove`. -/
theorem stepPerformsDecodedCommand : Obligations.StepPerformsDecodedCommand := by
  intro s
  refine ⟨fun hidle ha => ?_, fun hidle rest ha => ?_, fun hbusy i hi _ => ⟨fun ha => ?_, fun rest ha => ?_⟩,
    fun hbusy e he ha => ?_, fun i t => exec_busy⟩
  · rw [step_nil ha, engineMove_of_idle hidle]
  · rw [step_engine ha, engineMove_of_idle (by simpa using hidle)]
  · rw [step_nil ha, engineMove_of_decode hbusy hi]
  · rw [step_engine ha, engineMove_of_decode (by simpa using hbusy) (by simpa using hi)]
  · have hillegal := decode_eq_error_iff_not_mem_legalWords.1 ⟨e, he⟩
    exact ⟨_, (step_nil ha).trans (engineMove_illegal hbusy hillegal), raise_failsWith _ _⟩

/-! ## What changes which register -/

/-- Settles O17: of all the moves only the perform step of an INIT that succeeds writes a CFG register. -/
theorem cfgChangesOnlyAtFirstInit : Obligations.CfgChangesOnlyAtFirstInit := by
  intro s t hstep hreset
  cases step_effect hstep with
  | idle rest => exact .inl ⟨rfl, rfl, rfl, rfl⟩
  | perform rest _ hbusy hturn hperform =>
    exact (perform_sameCfg hperform).imp And.left fun ⟨hcmd, hbefore, hafter⟩ => ⟨hbefore, hafter, hcmd⟩
  | reset rest hturn => exact absurd hturn hreset
  | host g a rest _ hturn heffect => cases heffect <;> exact .inl ⟨rfl, rfl, rfl, rfl⟩

/-- Settles O32: no move but a reset clears a sticky flag, and acceptance clears ERR and ERRCODE. -/
theorem stickyFlags : Obligations.StickyFlags := by
  refine ⟨fun s t hstep hreset => ?_, fun s rest ha => ?_, fun s agent v rest hidle hport ha => ?_⟩
  · cases step_effect hstep with
    | idle rest => exact ⟨id, id, id⟩
    | perform rest _ hbusy hturn hperform =>
      obtain ⟨-, -, hfatal, hoverrun⟩ := perform_flags hperform
      refine ⟨hfatal, fun h => hoverrun.trans h, fun hinit => ?_⟩
      rcases perform_sameCfg hperform with ⟨-, hsame⟩ | ⟨-, -, hset⟩
      · exact hsame.trans hinit
      · exact hset
    | reset rest hturn => exact absurd hturn hreset
    | host g a rest _ hturn heffect =>
      cases heffect
      case dropped => exact ⟨id, fun _ => rfl, id⟩
      all_goals exact ⟨id, id, id⟩
  · exact ⟨_, step_reset ha, rfl, rfl, rfl⟩
  · exact ⟨_, step_cmdWrite_of_idle hidle hport ha, rfl, rfl⟩

/-- Settles O39: the perform step ends with BUSY 0, and of the host's accesses only a taken CMD write sets it. -/
theorem onlyCmdWriteStartsCommand : Obligations.OnlyCmdWriteStartsCommand := by
  intro s t hstep hidle hbusy
  cases step_effect hstep with
  | idle rest => simp [hidle] at hbusy
  | perform rest _ hflight => simp [hidle] at hflight
  | reset rest hturn => simp [blockReset, Status.reset] at hbusy
  | host g a rest _ hturn heffect =>
    cases heffect
    case command v _ => exact ⟨g, v, rest, hturn, rfl⟩
    all_goals simp [hidle] at hbusy

/-- Settles O40: the perform step leaves the inputs alone, and each of the host's three taken writes changes its own
register. -/
theorem onlyHostWritesInputs : Obligations.OnlyHostWritesInputs := by
  intro s t hstep hreset
  cases step_effect hstep with
  | idle rest => simp
  | perform rest _ hbusy hturn hperform =>
    obtain ⟨-, hcmd, hopa, hopb, -⟩ := perform_sameInputs hperform
    simp [hcmd, hopa, hopb]
  | reset rest hturn => exact absurd hturn hreset
  | host g a rest _ hturn heffect =>
    cases heffect
    case command v hidle => exact ⟨fun _ => ⟨hidle, g, by simp [hturn]⟩, by simp, by simp⟩
    case operandA v hidle => exact ⟨by simp, fun _ => ⟨hidle, g, by simp [hturn]⟩, by simp⟩
    case operandB v hidle => exact ⟨by simp, by simp, fun _ => ⟨hidle, g, by simp [hturn]⟩⟩
    all_goals simp

/-- Settles O41: no host access writes a RES register, and the perform step ends with DONE 1. -/
theorem resultsChangeOnlyAtPerform : Obligations.ResultsChangeOnlyAtPerform := by
  intro s t hstep hreset hchanged
  cases step_effect hstep with
  | idle rest => simp at hchanged
  | perform rest _ hbusy hturn hperform => exact ⟨hbusy, (perform_flags hperform).1, hturn⟩
  | reset rest hturn => exact absurd hturn hreset
  | host g a rest _ hturn heffect => cases heffect <;> simp at hchanged

/-- Settles O45: while BUSY is 1 no write is taken, and a dropped one sets OVERRUN alone. -/
theorem hostAccessWhileBusyKeepsCommand : Obligations.HostAccessWhileBusyKeepsCommand := by
  intro s t agent a rest hbusy ha hstep
  rw [step_host ha] at hstep
  cases hostAccess_effect hstep
  case command hidle | operandA hidle | operandB hidle => simp [hbusy] at hidle
  all_goals exact ⟨rfl, rfl, rfl, rfl, rfl, rfl, rfl, ⟨rfl, rfl, rfl, rfl⟩, rfl, rfl⟩

/-! ## The command port -/

/-- 10_state R33, R34: while BUSY is 1 a write to CMD, OPA or OPB only sets OVERRUN. -/
theorem portWrite_of_busy {s : State} (h : s.status.busy = true) (g : Nat) (accepted : Bool) (take : State → State) :
    portWrite g accepted take s = .next s.noteOverrun := by
  simp [portWrite, h]

theorem portWrite_of_free {s : State} {g : Nat} (hidle : s.status.busy = false) (hport : s.portTaken g = false)
    (accepted : Bool) (take : State → State) : portWrite g accepted take s = .next ((take s).holdPort g accepted) := by
  simp [portWrite, hidle, hport]

theorem portWrite_of_taken {s : State} {g : Nat} (hidle : s.status.busy = false) (hport : s.portTaken g = true)
    (accepted : Bool) (take : State → State) : portWrite g accepted take s = .refused .portInterleaved := by
  simp [portWrite, hidle, hport]

section
variable {s : State} {g : Nat} {v : Word} {rest : List Move}

theorem step_cmdWrite (ha : s.agenda = .host g (.regWrite s.params.mmioBase 8 v) :: rest) :
    step s = portWrite g true (acceptCommand v) (s.withAgenda rest) :=
  step_regWrite (slotOf_index s 0 (by omega)) ha

theorem step_opaWrite (ha : s.agenda = .host g (.regWrite (s.params.mmioBase + 0x08) 8 v) :: rest) :
    step s = portWrite g false (fun t => t.takeOpa v) (s.withAgenda rest) :=
  step_regWrite (slotOf_index s 1 (by omega)) ha

theorem step_opbWrite (ha : s.agenda = .host g (.regWrite (s.params.mmioBase + 0x10) 8 v) :: rest) :
    step s = portWrite g false (fun t => t.takeOpb v) (s.withAgenda rest) :=
  step_regWrite (slotOf_index s 2 (by omega)) ha

end

/-- Settles O36: a CMD write is a port write that accepts. -/
theorem cmdWriteAcceptedOrDropped : Obligations.CmdWriteAcceptedOrDropped := by
  intro s agent v rest ha
  exact ⟨fun hbusy => (step_cmdWrite ha).trans (portWrite_of_busy (s := s.withAgenda rest) hbusy _ _ _),
    fun hidle hport => step_cmdWrite_of_idle hidle hport ha⟩

/-- Settles O37: a write to OPA or OPB is a port write that takes the value. -/
theorem operandWriteTakenOrDropped : Obligations.OperandWriteTakenOrDropped := by
  intro s agent offset v rest hoffset ha
  rcases hoffset with rfl | rfl
  · exact ⟨fun hbusy => (step_opaWrite ha).trans (portWrite_of_busy (s := s.withAgenda rest) hbusy _ _ _),
      fun hidle hport => (step_opaWrite ha).trans (portWrite_of_free (s := s.withAgenda rest) hidle hport _ _)⟩
  · exact ⟨fun hbusy => (step_opbWrite ha).trans (portWrite_of_busy (s := s.withAgenda rest) hbusy _ _ _),
      fun hidle hport => (step_opbWrite ha).trans (portWrite_of_free (s := s.withAgenda rest) hidle hport _ _)⟩

/-- Settles O43: the port is taken for every other agent, and a holder that reads its completion lets go of it. -/
theorem commandPortMutex : Obligations.CommandPortMutex := by
  constructor
  · intro s agent index u v rest hindex hidle huser hagent ha
    have htaken : (s.withAgenda rest).portTaken agent = true := by simp [State.portTaken, huser, hagent]
    have hrefused := portWrite_of_taken (s := s.withAgenda rest) hidle htaken
    interval_cases index
    · exact (step_cmdWrite ha).trans (hrefused _ _)
    · exact (step_opaWrite ha).trans (hrefused _ _)
    · exact (step_opbWrite ha).trans (hrefused _ _)
  · intro s agent rest hidle hdone huser ha
    exact ⟨_, step_regRead (slotOf_index s 3 (by omega)) ha,
      by simp [State.portAfterRead, slotAt, hidle, hdone, huser]⟩

/-- Two taken writes by different agents differ in the record of the port alone. -/
theorem holdPort_portUser_none (s : State) (a b : Nat) (accepted : Bool) :
    { s.holdPort a accepted with portUser := none } = { s.holdPort b accepted with portUser := none } := rfl

/-- An access reads its agent only for the record of the port (60_exceptions R210, R211). -/
theorem portWrite_agent {a b : Nat} {accepted : Bool} {take : State → State} {s t u : State}
    (ht : portWrite a accepted take s = .next t) (hu : portWrite b accepted take s = .next u) :
    { t with portUser := none } = { u with portUser := none } := by
  rcases portWrite_next ht with ⟨hbusy, rfl⟩ | ⟨hidle, -, rfl⟩
  · rw [portWrite_of_busy hbusy] at hu
    cases hu
    rfl
  · rcases portWrite_next hu with ⟨hbusy, -⟩ | ⟨-, -, rfl⟩
    · simp [hidle] at hbusy
    · exact holdPort_portUser_none _ a b accepted

theorem writeReg_agent {a b : Nat} {r : Reg} {v : Word} {s t u : State}
    (ht : writeReg a r v s = .next t) (hu : writeReg b r v s = .next u) :
    { t with portUser := none } = { u with portUser := none } := by
  cases r
  case cmd => exact portWrite_agent (take := acceptCommand v) ht hu
  case opa => exact portWrite_agent (take := fun t => t.takeOpa v) ht hu
  case opb => exact portWrite_agent (take := fun t => t.takeOpb v) ht hu
  all_goals
    cases ht
    cases hu
    rfl

theorem regAccess_agent {a b addr width : Nat} {w : Option Word} {s t u : State}
    (ht : regAccess a addr width w s = .next t) (hu : regAccess b addr width w s = .next u) :
    { t with portUser := none } = { u with portUser := none } := by
  unfold regAccess at ht hu
  cases hr : s.slotOf addr width with
  | none => simp [hr] at ht
  | some r =>
    cases w with
    | none =>
      simp only [hr, Host.Outcome.next.injEq] at ht hu
      subst ht hu
      rfl
    | some v =>
      simp only [hr] at ht hu
      exact writeReg_agent ht hu

/-- Settles O44: an arena access does not name its agent, and a register access only for the record of the port. -/
theorem requesterIdentityIgnored : Obligations.RequesterIdentityIgnored := by
  intro s a b x rest t u ht hu
  rw [step_host (rest := rest) rfl] at ht hu
  cases x with
  | regRead addr width => exact regAccess_agent (w := none) ht hu
  | regWrite addr width v => exact regAccess_agent (w := some v) ht hu
  | arenaRead addr len =>
    cases ht.symm.trans hu
    rfl
  | arenaWrite addr bytes =>
    cases ht.symm.trans hu
    rfl

/-! ## The arena -/

theorem inArena_eq_true_iff (s : State) (lo hi : Nat) :
    s.inArena lo hi = true ↔ s.params.arenaBase ≤ lo ∧ hi ≤ s.arenaEnd := by
  simp [State.inArena, State.arenaEnd]

theorem hitsBitmap_eq_false_iff (s : State) (lo hi : Nat) :
    s.hitsBitmap lo hi = false ↔
      (s.status.initDone = true → ∀ a, lo ≤ a → a < hi → a < s.base ∨ s.base + 8 * s.numWords ≤ a) := by
  cases hinit : s.status.initDone
  · simp [State.hitsBitmap, hinit]
  · simp only [State.hitsBitmap, hinit, Bool.true_and, decide_eq_false_iff_not, true_implies]
    constructor
    · intro h a hlo hhi
      omega
    · intro h hlt
      have hfirst := h (max lo s.base) (by omega) (by omega)
      omega

/-- Settles O46: the write touches a bitmap word. -/
theorem bitmapWriteRefused : Obligations.BitmapWriteRefused := by
  intro s agent addr a bytes rest hinit hlow hhigh ha1 ha2 hb1 hb2 ha
  have hin : (s.withAgenda rest).inArena addr (addr + bytes.length) = true :=
    (inArena_eq_true_iff s _ _).2 ⟨hlow, hhigh⟩
  have hhits : (s.withAgenda rest).hitsBitmap addr (addr + bytes.length) = true := by
    rw [← Bool.not_eq_false]
    intro hoff
    have hout := (hitsBitmap_eq_false_iff s _ _).1 hoff hinit a ha1 ha2
    omega
  rw [step_host ha, hostAccess, arenaWrite, if_neg (by simp [hin]), if_pos hhits]

/-- A host write that is neither outside the arena nor on a bitmap word (20_memory R50, R57). -/
theorem step_arenaWrite {s : State} {g addr : Nat} {bytes : List Byte} {rest : List Move}
    (hin : s.inArena addr (addr + bytes.length) = true) (hoff : s.hitsBitmap addr (addr + bytes.length) = false)
    (ha : s.agenda = .host g (.arenaWrite addr bytes) :: rest) :
    step s = .next (((s.withAgenda rest).recordRaces addr bytes.length).writeBytes addr bytes) := by
  have hin' : (s.withAgenda rest).inArena addr (addr + bytes.length) = true := hin
  have hoff' : (s.withAgenda rest).hitsBitmap addr (addr + bytes.length) = false := hoff
  rw [step_host ha, hostAccess, arenaWrite, if_neg (by simp [hin']), if_neg (by simp [hoff'])]

/-- Every address of a host write in flight is recorded (log 5). -/
theorem mem_racedAfter {s : State} (hbusy : s.status.busy = true) {lo len i : Nat} (hi : i < len) :
    lo + i ∈ s.racedAfter lo len := by
  by_cases hold : lo + i ∈ s.raced <;> simp [State.racedAfter, hbusy, hold, List.mem_range'_1, hi]

/-- Settles O47: the write is neither outside the arena nor on a bitmap word. -/
theorem hostArenaWriteStores : Obligations.HostArenaWriteStores := by
  intro s agent addr bytes rest hlow hhigh hoff ha
  refine ⟨_, step_arenaWrite ((inArena_eq_true_iff s _ _).2 ⟨hlow, hhigh⟩) ((hitsBitmap_eq_false_iff s _ _).2 hoff) ha,
    fun i hi => arenaByte_writeBytes_inside _ addr bytes i hi, fun a => arenaByte_writeBytes_outside _ addr bytes a,
    fun hbusy i hi => ?_, rfl⟩
  exact mem_racedAfter (s := s.withAgenda rest) hbusy hi

/-- Settles O48: byte by byte the read returns `hostByte`, and one contended byte makes it a draw. -/
theorem hostArenaReadReturnsBytes : Obligations.HostArenaReadReturnsBytes := by
  intro s agent addr len rest hlow hhigh ha
  have hin : (s.withAgenda rest).inArena addr (addr + len) = true := (inArena_eq_true_iff s _ _).2 ⟨hlow, hhigh⟩
  have hstep : step s = .next ((s.withAgenda rest).returnBytes ((List.range' addr len).map (s.withAgenda rest).hostByte)
      ((s.withAgenda rest).drawsAfterRead addr len)) := by
    rw [step_host ha, hostAccess, arenaRead, if_neg (by simp [hin])]
  refine ⟨_, _, hstep, rfl, by simp, ?_, fun i hi hfree => ?_, fun i hi hcontended => ⟨?_, ?_⟩⟩
  · simp only [returnBytes_draws, State.drawsAfterRead]
    split <;> simp
  · simp [State.hostByte, hfree]
  · simp [State.hostByte, hcontended]
  · have hlen : i < len := by simpa using hi
    have hany : (List.range' addr len).any (s.withAgenda rest).contended = true :=
      List.any_eq_true.2 ⟨addr + i, List.mem_range'_1.2 (by omega), hcontended⟩
    simp [State.drawsAfterRead, hany]

/-- Settles O49: both arena accesses check their bounds first. -/
theorem hostAccessOutsideArenaFaults : Obligations.HostAccessOutsideArenaFaults := by
  intro s agent addr len bytes rest a haccess hout ha
  have hnot : (s.withAgenda rest).inArena addr (addr + len) = false := by
    rw [← Bool.not_eq_true, inArena_eq_true_iff]
    exact fun hin => by
      simp only [State.arenaEnd, withAgenda_params] at hin hout
      omega
  rw [step_host ha]
  rcases haccess with rfl | ⟨rfl, rfl⟩
  · rw [hostAccess, arenaRead, if_pos hnot]
  · rw [hostAccess, arenaWrite, if_pos hnot]

/-- A number written little-endian reads back (20_memory R54). -/
theorem memRead_memWrite (s : State) (a n v : Nat) (hv : v < 256 ^ n) : (s.memWrite a n v).memRead a n = v := by
  apply Nat.eq_of_testBit_eq
  intro b
  by_cases hb : b < 8 * n
  · have hbyte := arenaByte_writeBytes_inside s a (leBytes n v) (b / 8) (by simp; omega)
    have hpow : (256 : Nat) ^ (b / 8) = 2 ^ (8 * (b / 8)) := by rw [pow_mul]; norm_num
    rw [memRead_testBit _ _ _ _ hb, State.memWrite, hbyte, leBytes_getElem, BitVec.getLsbD_ofNat, hpow,
      Nat.testBit_div_two_pow, show b % 8 + 8 * (b / 8) = b by omega]
    simp [show b % 8 < 8 by omega]
  · have hbound : (256 : Nat) ^ n ≤ 2 ^ b := by
      rw [show (256 : Nat) = 2 ^ 8 by norm_num, ← pow_mul]
      exact Nat.pow_le_pow_right (by omega) (by omega)
    rw [Nat.testBit_lt_two_pow ((memRead_lt _ _ _).trans_le hbound), Nat.testBit_lt_two_pow (hv.trans_le hbound)]

/-- Settles O50: the store is a host write of the word's eight bytes. -/
theorem pteStoreReadsBack : Obligations.PteStoreReadsBack := by
  intro s agent tableAddr i word rest hlow hhigh hoff ha
  have hin : s.inArena (pteSlot tableAddr i) (pteSlot tableAddr i + (leBytes 8 word.toNat).length) = true := by
    rw [inArena_eq_true_iff, leBytes_length, pteSlot]
    omega
  have hclear : s.hitsBitmap (pteSlot tableAddr i) (pteSlot tableAddr i + (leBytes 8 word.toNat).length) = false := by
    rw [hitsBitmap_eq_false_iff, leBytes_length, pteSlot]
    intro hinit a hlo hhi
    have := hoff hinit
    omega
  refine ⟨_, step_arenaWrite hin hclear ha, memRead_memWrite _ _ 8 _ word.isLt, fun a hout => ?_⟩
  rw [arenaByte_writeBytes_outside _ _ _ _ (by simpa [pteSlot] using hout)]
  rfl

end Sys2Proof.Machine
end

section
/-! STATUS after every step, the codec's round trips, and the pseudo-instructions (10_state R24; 42_pte_codec R167;
30_encoding R90): O12, O51, O55, O57. -/

namespace Sys2Proof.Machine

open Sys2Proof.Safety

/-! ## STATUS stays consistent -/

/-- Every error of the matrix has a code the block raises (60_exceptions R200, R201). -/
theorem code_mem_raisedCodes : ∀ (i : Instr), ∀ e ∈ errorsOf i, e.code ∈ raisedCodes := by
  intro i
  cases i <;> decide

theorem failsWith_statusOk {e : Error} {s t : State} (he : e.code ∈ raisedCodes) (h : FailsWith e s t) :
    StatusOk t := by
  obtain ⟨-, hstatus, -⟩ := h
  have hexhausted : e.code ≠ 2#4 → e ≠ .allocationExhausted := by
    rintro hcode rfl
    exact hcode rfl
  simp only [StatusOk, hstatus]
  exact ⟨by simp, by simp, fun _ => ⟨trivial, he⟩, fun _ hcode => by simp [hexhausted hcode]⟩

theorem EndedOk.statusOk {s t : State} (h : EndedOk s t) : StatusOk t := by
  simp [StatusOk, h.done, h.busy, h.err, h.errcode]

theorem perform_statusOk {s t : State} (h : perform s = .next t) : StatusOk t := by
  rcases perform_next h with ⟨-, -, rfl⟩ | ⟨i, -, hexec⟩
  · exact failsWith_statusOk (e := .illegalCommand) (by decide) (raise_failsWith _ _)
  · rcases exec_ends hexec with ⟨e, he, hfails⟩ | hok
    · exact failsWith_statusOk (code_mem_raisedCodes i e he) hfails
    · exact hok.statusOk

theorem hostEffect_statusOk {g : Nat} {a : Access} {s t : State} (h : StatusOk s) (heffect : HostEffect g s a t) :
    StatusOk t := by
  cases heffect
  case command => simp [StatusOk]
  all_goals exact h

theorem blockReset_statusOk (s : State) : StatusOk (blockReset s) := by
  simp [blockReset, StatusOk, Status.reset]

theorem step_statusOk {s t : State} (h : StatusOk s) (hstep : step s = .next t) : StatusOk t := by
  cases step_effect hstep with
  | idle rest => exact h
  | perform rest _ hbusy hturn hperform => exact perform_statusOk hperform
  | reset rest hturn => exact blockReset_statusOk _
  | host g a rest _ hturn heffect => exact hostEffect_statusOk (s := s.withAgenda rest) h heffect

/-- Settles O57: a perform step ends with `raise` or `finish_ok`; of the host's accesses only an accepted CMD write and
a dropped write touch STATUS. -/
theorem stepKeepsStatusConsistent : Obligations.StepKeepsStatusConsistent := fun _ _ => step_statusOk

/-! ## The invariant at power-on -/

/-- Settles O55: the reference parameters meet 00_scope R7 too. -/
theorem resetHasInvariant : Obligations.ResetHasInvariant :=
  ⟨fun _ hp => resetWith_inv hp, resetWith_inv (by decide)⟩

/-! ## The codec's round trips (42_pte_codec R167, R169) -/

section
variable {flags ppn : Nat} (hflags : flags < 2 ^ 8) (hppn : ppn < 2 ^ 44)
include hflags hppn

theorem pteFlags_ptePack : ((pteFlags (ptePack flags ppn)).setWidth 64).toNat = flags := by
  rw [BitVec.toNat_setWidth_of_le (by omega), pteFlags, extractLsb'_ptePack_flags hflags hppn, BitVec.toNat_ofNat,
    Nat.mod_eq_of_lt hflags]

theorem ptePpn_ptePack : ((ptePpn (ptePack flags ppn)).setWidth 64).toNat = ppn := by
  rw [BitVec.toNat_setWidth_of_le (by omega), ptePpn_toNat, ptePack_toNat_eq_sum hflags hppn]
  omega

/-- The packed word, bit by bit: the flags below bit 10, the frame number above. -/
theorem ptePack_getLsbD (i : Nat) :
    (ptePack flags ppn).getLsbD i = if i < 10 then flags.testBit i else ppn.testBit (i - 10) := by
  rw [BitVec.getLsbD, ptePack_toNat_eq_sum hflags hppn, Nat.mul_comm,
    Nat.testBit_two_pow_mul_add ppn (by omega)]

end

/-- The reserved bits are exactly 9:8 and 63:54 (42_pte_codec R163). -/
theorem rsvdMask_getLsbD_eq : ∀ i < 64, rsvdMask.getLsbD i = decide ((8 ≤ i ∧ i < 10) ∨ 54 ≤ i) := by
  decide

/-- Packing what a word's fields hold gives the word without its reserved bits. -/
theorem ptePack_fields (w : Word) : ptePack (pteFlags w).toNat (ptePpn w).toNat = w &&& ~~~ rsvdMask := by
  apply BitVec.eq_of_getLsbD_eq
  intro i hi
  have hflags : (pteFlags w).toNat.testBit i = (decide (i < 8) && w.getLsbD i) := by
    rw [← BitVec.getLsbD, pteFlags, BitVec.getLsbD_extractLsb', Nat.zero_add]
  have hppn : (ptePpn w).toNat.testBit (i - 10) = (decide (i - 10 < 44) && w.getLsbD (10 + (i - 10))) := by
    rw [← BitVec.getLsbD, ptePpn_eq_extractLsb', BitVec.getLsbD_extractLsb']
  rw [ptePack_getLsbD (pteFlags w).isLt (ptePpn w).isLt, hflags, hppn, BitVec.getLsbD_and, BitVec.getLsbD_not,
    rsvdMask_getLsbD_eq i hi]
  split
  next hlow =>
    have : ¬ 54 ≤ i := by omega
    by_cases h8 : i < 8
    · have : ¬ 8 ≤ i := by omega
      simp [*]
    · have : 8 ≤ i := by omega
      simp [*]
  next hhigh =>
    rw [show 10 + (i - 10) = i by omega]
    by_cases h54 : 54 ≤ i
    · have : ¬ i - 10 < 44 := by omega
      simp [*]
    · have : i - 10 < 44 := by omega
      simp [*]

/-- The kind does not depend on the reserved bits (42_pte_codec R164). -/
theorem pteKind_and_not_rsvdMask (w : Word) : pteKind (w &&& ~~~ rsvdMask) = pteKind w := by
  apply pteKind_congr
  apply BitVec.eq_of_getLsbD_eq
  intro i hi
  have hmask : rsvdMask.getLsbD i = false := by
    rw [rsvdMask_getLsbD_eq i (by omega)]
    exact decide_eq_false (by omega)
  rw [BitVec.getLsbD_extractLsb', BitVec.getLsbD_extractLsb', Nat.zero_add, BitVec.getLsbD_and, BitVec.getLsbD_not,
    hmask]
  simp [show i < 64 by omega]

/-- Settles O12: unpacking the packed word gives back the fields, and packing the fields of a word gives the word
without its reserved bits. -/
theorem pteCodecRoundTrip : Obligations.PteCodecRoundTrip := by
  constructor
  · intro s hflags hppn
    have henc : exec .pteEnc s = .next (endPerform (applyEnc s (ptePack s.opaNat s.opbNat))) := by
      rw [exec_pteEnc, planEnc_go.2 ⟨hflags, hppn, rfl⟩, runPlan_go]
    exact ⟨_, _, henc, exec_pteDec _, BitVec.eq_of_toNat_eq (pteFlags_ptePack hflags hppn),
      BitVec.eq_of_toNat_eq (ptePpn_ptePack hflags hppn), rfl, ptePack_and_rsvdMask hflags hppn⟩
  · intro s
    have hflags : ((pteFlags s.opa).setWidth 64).toNat = (pteFlags s.opa).toNat :=
      BitVec.toNat_setWidth_of_le (by omega)
    have hppn : ((ptePpn s.opa).setWidth 64).toNat = (ptePpn s.opa).toNat := BitVec.toNat_setWidth_of_le (by omega)
    have hplan : planEnc { endPerform (applyDec s s.opa) with
        opa := (endPerform (applyDec s s.opa)).res0, opb := (endPerform (applyDec s s.opa)).res1 } =
        .go (s.opa &&& ~~~ rsvdMask) := by
      rw [planEnc_go, ← ptePack_fields]
      simp only [State.opaNat, State.opbNat, endPerform_res0, endPerform_res1, applyDec, finishOk_res0, finishOk_res1,
        hflags, hppn]
      exact ⟨(pteFlags s.opa).isLt, (ptePpn s.opa).isLt, trivial⟩
    have henc := exec_pteEnc { endPerform (applyDec s s.opa) with
      opa := (endPerform (applyDec s s.opa)).res0, opb := (endPerform (applyDec s s.opa)).res1 }
    rw [hplan, runPlan_go] at henc
    exact ⟨_, _, exec_pteDec s, henc, rfl, rfl, congrArg PteKind.code (pteKind_and_not_rsvdMask s.opa)⟩

/-! ## The pseudo-instructions (30_encoding R90) -/

/-- An access flag is one of bits 3:1 (42_pte_codec R160). -/
theorem not_hasAccessFlag_iff (flags : Nat) :
    ¬ hasAccessFlag flags ↔ flags.testBit 1 = false ∧ flags.testBit 2 = false ∧ flags.testBit 3 = false := by
  simp only [hasAccessFlag, Nat.testBit_eq_decide_div_mod_eq, decide_eq_false_iff_not, not_not]
  omega

theorem ppnOfAddress_lt {pa : Nat} (h : pa < 2 ^ 56) : ppnOfAddress pa < 2 ^ 64 := by
  rw [ppnOfAddress, Nat.shiftRight_eq_div_pow]
  omega

/-- What a pseudo-instruction expands to is accepted where it is. -/
theorem coreLine_wf {l : Line} (h : l.wf) : (coreLine l).wf := by
  cases l
  case frame | table | pteEmpty => decide
  case free4k address =>
    exact decide_eq_true ⟨of_decide_eq_true h, by decide⟩
  case pteBranch pa =>
    obtain ⟨-, hpa⟩ : pa % 4096 = 0 ∧ pa < 2 ^ 56 := of_decide_eq_true h
    exact decide_eq_true ⟨by decide, ppnOfAddress_lt hpa⟩
  case pteLeaf pa flags =>
    obtain ⟨-, hpa, -, hflags⟩ : pa % 4096 = 0 ∧ pa < 2 ^ 56 ∧ hasAccessFlag flags ∧ flags < 2 ^ 64 :=
      of_decide_eq_true h
    exact decide_eq_true ⟨Nat.or_lt_two_pow hflags (by decide), ppnOfAddress_lt hpa⟩
  all_goals exact h

/-- Settles O51: the expansions are those of the table, and the last column is `Line.ok`. -/
theorem pseudoInstructions : Obligations.PseudoInstructions := by
  refine ⟨rfl, rfl, fun _ => rfl, rfl, fun _ => rfl, fun _ _ => rfl, fun l => by cases l <;> rfl,
    fun _ => coreLine_wf, rfl, rfl, rfl, fun a ha => decide_eq_true ha, fun pa => ?_, fun pa flags hflags => ?_⟩
  · rw [Line.wf, Line.ok, decide_eq_true_iff]
    omega
  · rw [← not_hasAccessFlag_iff, Line.wf, Line.ok, decide_eq_true_iff, not_and_or, not_and_or, not_and_or, Nat.not_lt]
    simp only [hflags, not_true_eq_false, or_false, ne_eq]

end Sys2Proof.Machine
end

section
/-! Memory: every step keeps the arena's canonical form, and the perform step changes no byte outside the command's
footprint (20_memory R55, R57; logs 3, 13): O9, O56. -/

namespace Sys2Proof.Machine

open Sys2Proof.Safety

/-! ## The canonical form after a command -/

/-- `finish_ok` and the end of the perform step touch no byte. -/
theorem memoryOk_finish {u : State} (h : MemoryOk u) (r0 r1 r2 r3 : Word) :
    MemoryOk (endPerform (finishOk r0 r1 r2 r3 u)) := memoryOk_congr rfl rfl rfl le_rfl h

/-- A run that ends in word `m - 1` lies in words inside the arena if the first `m` words do. -/
theorem inArena_run_words {s : State} {m k n : Nat} (hm : s.bitmapInArena m = true) (hfit : k + n ≤ 64 * m)
    (hn : 0 < n) : s.inArena (s.base + 8 * (k / 64)) (s.base + 8 * ((k + n - 1) / 64 + 1)) = true := by
  rw [State.bitmapInArena, inArena_eq_true_iff] at hm
  rw [inArena_eq_true_iff]
  omega

/-- A plan of ALLOC that goes on: its frames have bits in the bitmap's words, which lie in the arena. -/
theorem planAlloc_go_fits {c : SizeClass} {s : State} {r : FrameRun} (hplan : planAlloc c s = .go r) :
    s.bitmapInArena s.numWords = true ∧ r.k + r.n ≤ 64 * s.numWords := by
  obtain ⟨-, hcount, -, hwords, hsearch, hn⟩ := planAlloc_go.1 hplan
  rw [hn]
  exact ⟨hwords, (search_some hcount hsearch).1⟩

theorem setFrames_memoryOk {c : SizeClass} {s : State} {r : FrameRun} (h : MemoryOk s)
    (hplan : planAlloc c s = .go r) : MemoryOk (s.setFrames r.k r.n) := by
  obtain ⟨hwords, hfit⟩ := planAlloc_go_fits hplan
  exact memoryOk_updateWords h _ _ _ (inArena_run_words hwords hfit)

theorem applyZalloc_memoryOk {c : SizeClass} {s : State} {r : FrameRun} (h : MemoryOk s)
    (hplan : planZalloc c s = .go r) : MemoryOk (endPerform (applyZalloc s r)) := by
  obtain ⟨halloc, hin⟩ := planZalloc_go.1 hplan
  have hsame := (setFrames_same s r.k r.n).trans (zeroRange_same _ (s.runAddr r) (s.runEnd r))
  refine memoryOk_finish (memoryOk_settleRaces (memoryOk_zeroRange (setFrames_memoryOk h halloc) _ _) ?_ _ _ ?_) _ _ _ _
  · rw [zeroRange_draws, setFrames_draws]
  · rw [State.inArena, hsame.params]
    exact hin

theorem applyFree_memoryOk {c : SizeClass} {s : State} {r : FrameRun} (h : MemoryOk s)
    (hplan : planFree c s = .go r) : MemoryOk (endPerform (applyFree s r)) := by
  obtain ⟨-, -, -, -, -, -, -, hwords, -, rfl⟩ := planFree_go.1 hplan
  exact memoryOk_finish (memoryOk_updateWords h _ _ _ (inArena_run_words hwords (by simp only; omega))) _ _ _ _

/-- Where a plan of INIT that goes on lays its words: in the arena, inside a region that they track. -/
theorem planInit_go_fits {s : State} {p : InitLayout} (hplan : planInit s = .go p) :
    p.Fits ∧ s.inArena p.start (p.start + 8 * p.words) = true := by
  obtain ⟨-, hlong, -, hlow, hhigh, rfl⟩ := planInit_go.1 hplan
  refine ⟨initLayout_fits hlong s.opb.isLt, ?_⟩
  rw [inArena_eq_true_iff]
  simp only [initLayout, ceilDiv]
  omega

/-- INIT keeps the canonical form, raced on or not. -/
theorem applyInit_memoryOk_of_plan {s : State} {p : InitLayout} (h : MemoryOk s) (hplan : planInit s = .go p) :
    MemoryOk (endPerform (applyInit s p)) := by
  obtain ⟨hp, hin⟩ := planInit_go_fits hplan
  have hcfg : MemoryOk (writeCfg p s) := memoryOk_congr rfl rfl rfl le_rfl h
  have hlaid : MemoryOk (layBitmap p (writeCfg p s)) :=
    memoryOk_layBitmap hcfg p (writeCfg_base hp) hp.frames_le (hp.bmFrames_le.trans hp.frames_le) hin
  have hsettled : MemoryOk (settleRaces s p.start (p.start + 8 * p.words) (layBitmap p (writeCfg p s))) := by
    refine memoryOk_settleRaces hlaid (by simp) _ _ ?_
    rw [State.inArena, (layBitmap_same p (writeCfg p s)).params]
    exact hin
  exact memoryOk_congr rfl rfl rfl le_rfl hsettled

theorem exec_memoryOk {i : Instr} {s t : State} (h : MemoryOk s) (hexec : exec i s = .next t) : MemoryOk t := by
  rcases exec_next hexec with ⟨e, rfl⟩ | ⟨-, p, hplan, rfl⟩ | ⟨c, r, -, hplan, rfl⟩ | ⟨c, r, -, hplan, rfl⟩ |
    ⟨c, r, -, hplan, rfl⟩ | ⟨-, w, -, rfl⟩ | ⟨-, rfl⟩
  · exact memoryOk_congr rfl rfl rfl le_rfl h
  · exact applyInit_memoryOk_of_plan h hplan
  · exact memoryOk_finish (setFrames_memoryOk h hplan) _ _ _ _
  · exact applyZalloc_memoryOk h hplan
  · exact applyFree_memoryOk h hplan
  · exact memoryOk_finish h _ _ _ _
  · exact memoryOk_finish h _ _ _ _

theorem perform_memoryOk {s t : State} (h : MemoryOk s) (hperform : perform s = .next t) : MemoryOk t := by
  rcases perform_next hperform with ⟨-, -, rfl⟩ | ⟨i, -, hexec⟩
  · exact memoryOk_congr rfl rfl rfl le_rfl h
  · exact exec_memoryOk h hexec

/-! ## The canonical form after a host access and a reset -/

theorem hostEffect_memoryOk {g : Nat} {a : Access} {s t : State} (h : MemoryOk s) (heffect : HostEffect g s a t) :
    MemoryOk t := by
  cases heffect
  case arenaRead hle => exact memoryOk_congr (s := s) rfl rfl rfl hle h
  case arenaWrite addr bytes hin hoff =>
    exact memoryOk_writeBytes (memoryOk_congr rfl rfl rfl le_rfl h) addr bytes hin
  all_goals exact memoryOk_congr rfl rfl rfl le_rfl h

theorem abandon_memoryOk {s : State} (h : MemoryOk s) : MemoryOk (abandon s) := by
  have hregion := memoryOk_drawRange h s.base (s.base + 4096 * s.numFrames)
  by_cases hinit : decode s.cmd = .ok .fbaInit
  · rw [abandon_of_init hinit]
    exact memoryOk_drawRange hregion _ _
  · rw [abandon_of_not_init hinit]
    exact hregion

theorem blockReset_memoryOk {s : State} (h : MemoryOk s) : MemoryOk (blockReset s) := by
  cases hbusy : s.status.busy with
  | false =>
    rw [blockReset_of_idle hbusy]
    exact memoryOk_congr rfl rfl rfl le_rfl h
  | true =>
    rw [blockReset_of_busy hbusy]
    exact memoryOk_congr rfl rfl rfl le_rfl (abandon_memoryOk h)

theorem step_memoryOk {s t : State} (h : MemoryOk s) (hstep : step s = .next t) : MemoryOk t := by
  cases step_effect hstep with
  | idle rest => exact h
  | perform rest _ hbusy hturn hperform => exact perform_memoryOk (s := s.withAgenda rest) h hperform
  | reset rest hturn => exact blockReset_memoryOk (s := s.withAgenda rest) h
  | host g a rest _ hturn heffect => exact hostEffect_memoryOk (s := s.withAgenda rest) h heffect

/-- Settles O56: every write of a command or of the host lies in the arena and keeps the form, and a draw takes a fresh
tag. -/
theorem stepKeepsMemoryCanonical : Obligations.StepKeepsMemoryCanonical := fun _ _ => step_memoryOk

/-! ## The footprint of a command (20_memory R57; log 13) -/

theorem writesOf_allocInstr (c : SizeClass) (s : State) :
    writesOf c.allocInstr s = planWrites (planAlloc c s) (fun r => [s.runWordRange r]) := by
  cases c <;> rfl

theorem writesOf_zallocInstr (c : SizeClass) (s : State) : writesOf c.zallocInstr s =
    planWrites (planZalloc c s) (fun r => [s.runWordRange r, (s.runAddr r, s.runEnd r)]) := by
  cases c <;> rfl

theorem writesOf_deallocInstr (c : SizeClass) (s : State) :
    writesOf c.deallocInstr s = planWrites (planFree c s) (fun r => [s.runWordRange r]) := by
  cases c <;> rfl

/-- A range list holds no byte it does not list. -/
theorem any_rangeHas_eq_false_iff (ranges : List Range) (a : Nat) :
    ranges.any (fun r => rangeHas r a) = false ↔ ∀ r ∈ ranges, a < r.1 ∨ r.2 ≤ a := by
  simp only [List.any_eq_false, rangeHas, decide_eq_true_eq]
  exact forall₂_congr fun r _ => by omega

theorem contended_of_decode {s : State} {i : Instr} (hbusy : s.status.busy = true) (hi : decode s.cmd = .ok i)
    (a : Nat) : s.contended a = (writesOf i s).any (fun r => rangeHas r a) := by
  simp [State.contended, inFlightWrites, hbusy, hi]

/-- `SetFrames` and `ClearFrames` write the words of their run. -/
theorem arenaByte_outside_runWordRange {s : State} {r : FrameRun} {a : Nat} (f : Nat → Word → Word)
    (h : a < (s.runWordRange r).1 ∨ (s.runWordRange r).2 ≤ a) : (s.updateWords r.k r.n f).arenaByte a = s.arenaByte a :=
  arenaByte_updateWords_outside s r.k r.n f a h

/-- `ZeroFill` and its races write the run's frames. -/
theorem zeroFill_outside (before : State) (r : FrameRun) (s : State) {a : Nat}
    (h : a < before.runAddr r ∨ before.runEnd r ≤ a) : (zeroFill before r s).arenaByte a = s.arenaByte a := by
  rw [zeroFill, settleRaces_outside _ _ _ _ _ (.inr h), arenaByte_zeroRange, if_neg (by omega)]

/-- INIT and its races write the words it lays. -/
theorem applyInit_outside {s : State} {p : InitLayout} (hp : p.Fits) {a : Nat}
    (h : a < p.start ∨ p.start + 8 * p.words ≤ a) : (applyInit s p).arenaByte a = s.arenaByte a := by
  rw [applyInit, finishOk_arenaByte, setInitDone_arenaByte, settleRaces_outside _ _ _ _ _ (.inr h),
    arenaByte_layBitmap_outside p _ (writeCfg_base hp) hp.frames_le (hp.bmFrames_le.trans hp.frames_le) a h,
    writeCfg_arenaByte]

theorem exec_arenaByte {i : Instr} {s t : State} (hexec : exec i s = .next t) {a : Nat}
    (ha : (writesOf i s).any (fun r => rangeHas r a) = false) : t.arenaByte a = s.arenaByte a := by
  rw [any_rangeHas_eq_false_iff] at ha
  rcases exec_next hexec with ⟨e, rfl⟩ | ⟨rfl, p, hplan, rfl⟩ | ⟨c, r, rfl, hplan, rfl⟩ | ⟨c, r, rfl, hplan, rfl⟩ |
    ⟨c, r, rfl, hplan, rfl⟩ | ⟨-, w, -, rfl⟩ | ⟨-, rfl⟩
  · rfl
  · rw [writesOf, hplan] at ha
    rw [endPerform_arenaByte]
    exact applyInit_outside (planInit_go_fits hplan).1 (ha _ (List.mem_singleton_self _))
  · rw [writesOf_allocInstr, hplan] at ha
    rw [endPerform_arenaByte, applyAlloc, finishOk_arenaByte]
    exact arenaByte_outside_runWordRange _ (ha _ (List.mem_singleton_self _))
  · rw [writesOf_zallocInstr, hplan] at ha
    rw [endPerform_arenaByte, applyZalloc, finishOk_arenaByte, zeroFill_outside _ _ _ (ha _ (.tail _ (.head _)))]
    exact arenaByte_outside_runWordRange _ (ha _ (.head _))
  · rw [writesOf_deallocInstr, hplan] at ha
    rw [endPerform_arenaByte, applyFree, finishOk_arenaByte]
    exact arenaByte_outside_runWordRange _ (ha _ (List.mem_singleton_self _))
  · rfl
  · rfl

theorem perform_arenaByte {s t : State} (hbusy : s.status.busy = true) (hperform : perform s = .next t) {a : Nat}
    (ha : s.contended a = false) : t.arenaByte a = s.arenaByte a := by
  rcases perform_next hperform with ⟨-, -, rfl⟩ | ⟨i, hi, hexec⟩
  · rfl
  · rw [contended_of_decode hbusy hi] at ha
    exact exec_arenaByte hexec ha

/-- Settles O9: each command writes the ranges its footprint lists, and a command that raises writes nothing. -/
theorem performWritesOnlyItsFootprint : Obligations.PerformWritesOnlyItsFootprint := by
  intro s t hbusy hagenda hstep a ha
  rw [step_eq_perform hbusy hagenda] at hstep
  exact perform_arenaByte hbusy hstep ha

end Sys2Proof.Machine
end

section
/-! The invariant (10_state R27, R30): what a search finds under it, what each command does to the bitmap's bits, and
that every step keeps it; that no engine access leaves the arena, and what the engine writes (20_memory R53, R55): O6,
O7, O8, O58, O59. -/

namespace Sys2Proof.Machine

open Sys2Proof.Safety

/-! ## The frames a search finds -/

/-- The bitmap's words lie in the bitmap's own frames (41_frame_allocator R100). -/
theorem words_le_bmFrames {s : State} (hinv : Inv s) (hinit : s.status.initDone = true) :
    8 * s.numWords ≤ 4096 * s.bmFrames := by
  obtain ⟨-, -, -, ⟨-, hconfig⟩, -⟩ := hinv
  obtain ⟨-, -, -, hB, -⟩ := hconfig hinit
  omega

/-- 41_frame_allocator R105 to R107: the start of every candidate names an address aligned to the class. -/
theorem candidate_aligned {s : State} {c : SizeClass} {count k : Nat} (hbase : s.base % 4096 = 0)
    (h : Candidate s c count k) : (s.base + 4096 * k) % bytesPer c = 0 := by
  cases c with
  | c4k =>
    rw [bytesPer, framesPer, Nat.one_mul]
    omega
  | c2m => exact h.2.2
  | c1g => exact h.2.2

/-- What ALLOC and ZALLOC take under the invariant: free, aligned, tracked frames outside the bitmap. -/
structure FreeFrames (c : SizeClass) (s : State) (r : FrameRun) : Prop where
  init : s.status.initDone = true
  count : r.n = s.opaNat * framesPer c
  pos : r.n ≠ 0
  above : s.bmFrames ≤ r.k
  below : r.k + r.n ≤ s.numFrames
  aligned : (s.base + 4096 * r.k) % bytesPer c = 0
  free : FreeRun s r.k r.n

section
variable {c : SizeClass} {s : State} {r : FrameRun} (hinv : Inv s)
include hinv

theorem planAlloc_go_freeFrames (hplan : planAlloc c s = .go r) : FreeFrames c s r := by
  obtain ⟨hinit, hcount, -, -, hsearch, hn⟩ := planAlloc_go.1 hplan
  obtain ⟨-, hfit⟩ := planAlloc_go_fits hplan
  obtain ⟨hcandidate, hfree, -⟩ := (search_eq_some_iff_firstFit hcount r.k).1 hsearch
  have hpos : r.n ≠ 0 := hn ▸ Nat.mul_ne_zero hcount (framesPer_pos c).ne'
  rw [← hn] at hfree
  have hbelow := freeRun_le_numFrames hinv hinit hpos hfit hfree
  obtain ⟨-, -, -, ⟨-, hconfig⟩, hbitmap, -⟩ := hinv
  obtain ⟨hbase, -⟩ := hconfig hinit
  refine ⟨hinit, hn, hpos, ?_, hbelow, candidate_aligned hbase hcandidate, hfree⟩
  by_contra hlt
  have hused := (hbitmap hinit).1 r.k (by omega) (.inl (by omega))
  rw [hfree r.k (by omega) le_rfl] at hused
  cases hused

/-- The frames lie above the bitmap's words and inside the region (20_memory R55). -/
theorem FreeFrames.range (h : FreeFrames c s r) :
    s.base + 8 * s.numWords ≤ s.runAddr r ∧ s.runEnd r ≤ s.base + 4096 * s.numFrames := by
  obtain ⟨hinit, -, -, habove, hbelow, -, -⟩ := h
  have hwords := words_le_bmFrames hinv hinit
  rw [State.runEnd, State.runAddr]
  omega

/-- Under the invariant ZALLOC's fill stays in the arena, so ALLOC's checks are all it needs (41_frame_allocator
R114). -/
theorem planZalloc_eq_planAlloc : planZalloc c s = planAlloc c s := by
  unfold planZalloc
  split
  next hplan => exact hplan.symm
  next hplan => exact hplan.symm
  next r hplan =>
    have hfree := planAlloc_go_freeFrames hinv hplan
    obtain ⟨hlow, hhigh⟩ := hfree.range hinv
    have hregion := regionFits_of_inv hinv hfree.init
    have hin : s.inArena (s.runAddr r) (s.runEnd r) = true := by
      rw [inArena_eq_true_iff]
      have hbase := hregion.base_mem
      have hend := hregion.end_mem
      omega
    rw [hplan, if_neg (by simp [hin])]

/-! ## The bits after a command -/

/-- ZALLOC fills frames above the bitmap's words, so it sets the bits that ALLOC sets. -/
theorem applyZalloc_bit (hfree : FreeFrames c s r) {j : Nat} (hj : j < 64 * s.numWords) :
    (applyZalloc s r).bit j = (s.bit j || decide (r.k ≤ j ∧ j < r.k + r.n)) := by
  obtain ⟨hlow, -⟩ := hfree.range hinv
  have hset := setFrames_same s r.k r.n
  have hfill := (zeroRange_same (s.setFrames r.k r.n) (s.runAddr r) (s.runEnd r)).trans
    (settleRaces_same s (s.runAddr r) (s.runEnd r) _)
  have hbase : (zeroFill s r (s.setFrames r.k r.n)).base = s.base := by rw [zeroFill, hfill.base, hset.base]
  rw [applyZalloc, finishOk_bit, ← bit_setFrames, bit_eq_byte, bit_eq_byte, hbase, hset.base,
    zeroFill_outside s r _ (by omega)]

omit hinv in
theorem applyFree_bit (j : Nat) :
    (applyFree s r).bit j = (s.bit j && !decide (r.k ≤ j ∧ j < r.k + r.n)) := by
  rw [applyFree, finishOk_bit, bit_clearFrames]

omit hinv in
theorem applyAlloc_bit (j : Nat) :
    (applyAlloc s r).bit j = (s.bit j || decide (r.k ≤ j ∧ j < r.k + r.n)) := by
  rw [applyAlloc, finishOk_bit, bit_setFrames]

end

/-- 10_state R30, 41_frame_allocator R121: after INIT a command leaves a bit alone, or it is an allocation and the bit
is 1, or it is a DEALLOC and the bit, of a tracked frame outside the bitmap, is 0. -/
theorem exec_bit_cases {i : Instr} {s t : State} (hinv : Inv s) (hinit : s.status.initDone = true)
    (hexec : exec i s = .next t) {j : Nat} (hj : j < 64 * s.numWords) :
    t.bit j = s.bit j ∨
    (∃ c : SizeClass, (i = c.allocInstr ∨ i = c.zallocInstr) ∧ t.bit j = true) ∨
    (∃ c : SizeClass, i = c.deallocInstr ∧ t.bit j = false ∧ s.bmFrames ≤ j ∧ j < s.numFrames) := by
  rcases exec_next hexec with ⟨e, rfl⟩ | ⟨-, p, hplan, -⟩ | ⟨c, r, hi, hplan, rfl⟩ | ⟨c, r, hi, hplan, rfl⟩ |
    ⟨c, r, hi, hplan, rfl⟩ | ⟨-, w, -, rfl⟩ | ⟨-, rfl⟩
  · exact .inl (by simp)
  · simp [planInit_of_initDone hinit] at hplan
  · by_cases hin : r.k ≤ j ∧ j < r.k + r.n
    · exact .inr (.inl ⟨c, .inl hi, by simp [applyAlloc_bit, hin]⟩)
    · exact .inl (by simp [applyAlloc_bit, hin])
  · have hfree := planAlloc_go_freeFrames hinv (planZalloc_go.1 hplan).1
    by_cases hin : r.k ≤ j ∧ j < r.k + r.n
    · exact .inr (.inl ⟨c, .inr hi, by simp [applyZalloc_bit hinv hfree hj, hin]⟩)
    · exact .inl (by simp [applyZalloc_bit hinv hfree hj, hin])
  · obtain ⟨-, -, -, -, -, hlow, hhigh, -, -, rfl⟩ := planFree_go.1 hplan
    by_cases hin : s.freeIndex ≤ j ∧ j < s.freeIndex + s.opbNat * framesPer c
    · exact .inr (.inr ⟨c, hi, by simp [applyFree_bit, hin], by omega, by omega⟩)
    · exact .inl (by simp [applyFree_bit, hin])
  · exact .inl (by simp [applyEnc])
  · exact .inl (by simp [applyDec])

/-! ## The unspecified spans after a command -/

theorem SpansAvoid.zeroRange {s : State} {lo hi : Nat} (h : SpansAvoid s lo hi) (lo' hi' : Nat) :
    SpansAvoid (s.zeroRange lo' hi') lo hi := by
  intro u hu
  rw [zeroRange_unspecified] at hu
  obtain ⟨v, hv, hlo, hhi, -, hne⟩ := Span.cut_part _ _ _ (fun w hw => (h w hw).1) u hu
  obtain ⟨-, hout⟩ := h v hv
  exact ⟨hne, by omega⟩

theorem SpansAvoid.updateWords {s : State} {lo hi : Nat} (h : SpansAvoid s lo hi) (k n : Nat)
    (f : Nat → Word → Word) : SpansAvoid (s.updateWords k n f) lo hi := by
  rw [State.updateWords]
  split
  next => exact h
  next => exact h.writeBytes _ _

theorem SpansAvoid.keepHostBytes {before after : State} {lo hi : Nat} (h : SpansAvoid after lo hi)
    (addrs : List Nat) : SpansAvoid (keepHostBytes before addrs after) lo hi := by
  induction addrs generalizing after with
  | nil => exact h
  | cons a rest ih =>
    rw [Machine.keepHostBytes]
    split
    next => exact ih (h.writeBytes _ _)
    next => exact ih h

theorem SpansAvoid.settleRaces {before after : State} {lo hi : Nat} (h : SpansAvoid after lo hi) (lo' hi' : Nat) :
    SpansAvoid (settleRaces before lo' hi' after) lo hi := by
  rw [Machine.settleRaces]
  split
  next => exact h
  next => exact SpansAvoid.keepHostBytes (after := { after with draws := before.draws + 1 }) h _

/-- 10_state R30: no bitmap byte is unspecified. -/
theorem inv_spansAvoid {s : State} (hinv : Inv s) (hinit : s.status.initDone = true) :
    SpansAvoid s s.base (s.base + 8 * s.numWords) := by
  obtain ⟨-, ⟨-, hspans, -⟩, -, -, hbitmap, -⟩ := hinv
  exact fun u hu => ⟨hspans.2 u hu, (hbitmap hinit).2 u hu⟩

/-- `finish_ok` and the end of the perform step touch no span. -/
theorem spansAvoid_finish {u : State} {lo hi : Nat} (h : SpansAvoid u lo hi) (r0 r1 r2 r3 : Word) :
    SpansAvoid (endPerform (finishOk r0 r1 r2 r3 u)) lo hi := h

/-- After INIT every command only writes bytes, or nothing. -/
theorem exec_spansAvoid {i : Instr} {s t : State} (hinit : s.status.initDone = true) (hexec : exec i s = .next t)
    {lo hi : Nat} (h : SpansAvoid s lo hi) : SpansAvoid t lo hi := by
  rcases exec_next hexec with ⟨e, rfl⟩ | ⟨-, p, hplan, -⟩ | ⟨c, r, -, -, rfl⟩ | ⟨c, r, -, -, rfl⟩ |
    ⟨c, r, -, -, rfl⟩ | ⟨-, w, -, rfl⟩ | ⟨-, rfl⟩
  · exact h
  · simp [planInit_of_initDone hinit] at hplan
  · exact spansAvoid_finish (h.setFrames _ _) _ _ _ _
  · exact spansAvoid_finish (((h.setFrames r.k r.n).zeroRange _ _).settleRaces _ _) _ _ _ _
  · exact spansAvoid_finish (h.updateWords _ _ _) _ _ _ _
  · exact h
  · exact h

/-! ## A command keeps the invariant -/

theorem exec_statusOk {i : Instr} {s t : State} (hexec : exec i s = .next t) : StatusOk t := by
  rcases exec_ends hexec with ⟨e, he, hfails⟩ | hok
  · exact failsWith_statusOk (code_mem_raisedCodes i e he) hfails
  · exact hok.statusOk

/-- The CFG registers as numbers (10_state R27). -/
theorem sameCfg_numbers {s t : State} (h : SameCfg s t) :
    t.base = s.base ∧ t.numFrames = s.numFrames ∧ t.numWords = s.numWords ∧ t.bmFrames = s.bmFrames := by
  obtain ⟨hbase, hframes, hwords, hbm⟩ := h
  simp only [State.base, State.numFrames, State.numWords, State.bmFrames, hbase, hframes, hwords, hbm, and_self]

theorem configOk_congr {s t : State} (h : ConfigOk s) (hparams : t.params = s.params) (hcfg : SameCfg s t)
    (hinit : t.status.initDone = s.status.initDone) : ConfigOk t := by
  obtain ⟨hbase, hframes, hwords, hbm⟩ := sameCfg_numbers hcfg
  obtain ⟨ebase, eframes, ewords, ebm⟩ := hcfg
  simp only [ConfigOk, State.arenaEnd, hinit, ebase, eframes, ewords, ebm, hbase, hframes, hwords, hbm, hparams]
  exact h

/-- The bitmap's part of the invariant after a step that keeps the used bits and adds no unspecified byte. -/
theorem bitmapOk_of_bits {s t : State} (hcfg : SameCfg s t)
    (hinit : t.status.initDone = s.status.initDone)
    (hbits : s.status.initDone = true → ∀ j < 64 * s.numWords, j < s.bmFrames ∨ s.numFrames ≤ j → t.bit j = true)
    (hspans : s.status.initDone = true → SpansAvoid t s.base (s.base + 8 * s.numWords)) : BitmapOk t := by
  obtain ⟨hbase, hframes, hwords, hbm⟩ := sameCfg_numbers hcfg
  simp only [BitmapOk, hinit, hbase, hframes, hwords, hbm]
  exact fun h => ⟨hbits h, fun u hu => (hspans h u hu).2⟩

theorem exec_raced {i : Instr} {s t : State} (hexec : exec i s = .next t) : t.raced = [] := by
  rcases exec_next hexec with ⟨e, rfl⟩ | ⟨-, p, -, rfl⟩ | ⟨c, r, -, -, rfl⟩ | ⟨c, r, -, -, rfl⟩ |
    ⟨c, r, -, -, rfl⟩ | ⟨-, w, -, rfl⟩ | ⟨-, rfl⟩ <;> rfl

/-- A first INIT that goes on needs the boot order: no host has raced on the words it lays. -/
theorem exec_inv {i : Instr} {s t : State} (hinv : Inv s)
    (hboot : ∀ p, i = .fbaInit → planInit s = .go p → s.racedIn p.start (p.start + 8 * p.words) = [])
    (hexec : exec i s = .next t) : Inv t := by
  rcases exec_sameCfg hexec with ⟨hcfg, hflag⟩ | ⟨rfl, hinit, hset⟩
  · obtain ⟨hparams, -⟩ := exec_sameInputs hexec
    obtain ⟨hp, hmem, -, hconfig, hbitmap, -⟩ := id hinv
    refine ⟨?_, exec_memoryOk hmem hexec, exec_statusOk hexec, configOk_congr hconfig hparams hcfg hflag,
      bitmapOk_of_bits hcfg hflag (fun hinit j hj hown => ?_)
        (fun hinit => exec_spansAvoid hinit hexec (inv_spansAvoid hinv hinit)), fun _ => exec_raced hexec⟩
    · rw [ParamsOk, hparams]
      exact hp
    · rcases exec_bit_cases hinv hinit hexec hj with hsame | ⟨-, -, htrue⟩ | ⟨-, -, -, hlow, hhigh⟩
      · exact hsame.trans ((hbitmap hinit).1 j hj hown)
      · exact htrue
      · omega
  · rw [exec_init] at hexec
    rcases runPlan_next hexec with ⟨e, -, rfl⟩ | ⟨p, hplan, rfl⟩
    · simp [hinit] at hset
    · exact applyInit_inv hinv hplan (hboot p rfl hplan)

/-- After INIT no boot order is left to keep. -/
theorem exec_inv_of_initDone {i : Instr} {s t : State} (hinv : Inv s) (hinit : s.status.initDone = true)
    (hexec : exec i s = .next t) : Inv t :=
  exec_inv hinv (fun p _ hplan => by simp [planInit_of_initDone hinit] at hplan) hexec

/-- 70_reset_and_hazards R233 item 3, in the words of `racedIn`. -/
theorem racedIn_eq_nil_of_bootOrder {s : State} {p : InitLayout} (hbusy : s.status.busy = true)
    (hcmd : decode s.cmd = .ok .fbaInit) (hboot : BootOrder s) (hplan : planInit s = .go p) :
    s.racedIn p.start (p.start + 8 * p.words) = [] := by
  refine racedIn_eq_nil fun a ha => ?_
  have hfree := hboot (by simp [decode?, hcmd]) a ha
  rw [contended_of_decode hbusy hcmd, any_rangeHas_eq_false_iff, writesOf, hplan] at hfree
  exact hfree _ (List.mem_singleton_self _)

theorem bootOrder_of_initDone {s : State} (hinit : s.status.initDone = true) : BootOrder s := by
  intro hcmd a _
  have hdecode : decode s.cmd = .ok .fbaInit := by
    unfold decode? at hcmd
    split at hcmd
    next hdecode =>
      cases hcmd
      exact hdecode
    next => cases hcmd
  cases hbusy : s.status.busy with
  | false => simp [State.contended, inFlightWrites, hbusy]
  | true => simp [contended_of_decode hbusy hdecode, writesOf, planInit_of_initDone hinit, planWrites]

theorem perform_inv {s t : State} (hinv : Inv s) (hbusy : s.status.busy = true) (hboot : BootOrder s)
    (hperform : perform s = .next t) : Inv t := by
  rcases perform_next hperform with ⟨e, -, rfl⟩ | ⟨i, hi, hexec⟩
  · obtain ⟨hparams, hmem, -, hconfig, hbitmap, -⟩ := id hinv
    refine ⟨hparams, hmem, failsWith_statusOk (by decide) (raise_failsWith .illegalCommand s), hconfig,
      bitmapOk_of_bits (s := s) ⟨rfl, rfl, rfl, rfl⟩ rfl (fun hinit j hj hown => ?_)
        (inv_spansAvoid hinv), fun _ => rfl⟩
    rw [endPerform_bit, raise_bit]
    exact (hbitmap hinit).1 j hj hown
  · refine exec_inv hinv (fun p hinit hplan => ?_) hexec
    exact racedIn_eq_nil_of_bootOrder hbusy (hinit ▸ hi) hboot hplan

/-! ## A host access and a reset keep the invariant -/

/-- A write off the bitmap's words changes no bit (70_reset_and_hazards R236). -/
theorem arenaWrite_bit {s : State} {addr : Nat} {bytes : List Byte} (hinit : s.status.initDone = true)
    (hoff : s.hitsBitmap addr (addr + bytes.length) = false) {j : Nat} (hj : j < 64 * s.numWords) :
    ((s.recordRaces addr bytes.length).writeBytes addr bytes).bit j = s.bit j := by
  have hclear := (hitsBitmap_eq_false_iff _ _ _).1 hoff hinit (s.base + j / 8)
  rw [bit_eq_byte, bit_eq_byte]
  have hbyte := arenaByte_writeBytes_outside (s.recordRaces addr bytes.length) addr bytes (s.base + j / 8) (by omega)
  exact congrArg (fun b : Byte => b.getLsbD (j % 8)) hbyte

theorem hostEffect_inv {g : Nat} {a : Access} {s t : State} (hinv : Inv s) (heffect : HostEffect g s a t) : Inv t := by
  obtain ⟨hparams, hmem, hstatus, hconfig, hbitmap, hraces⟩ := id hinv
  have hmem' := hostEffect_memoryOk hmem heffect
  have hstatus' := hostEffect_statusOk hstatus heffect
  cases heffect
  case command => exact ⟨hparams, hmem', hstatus', hconfig, hbitmap, fun hidle => by simp at hidle⟩
  case arenaWrite addr bytes hin hoff =>
    refine ⟨hparams, hmem', hstatus', hconfig, bitmapOk_of_bits (s := s) ⟨rfl, rfl, rfl, rfl⟩ rfl ?_ ?_,
      fun hidle => ?_⟩
    · exact fun hinit j hj hown => (arenaWrite_bit hinit hoff hj).trans ((hbitmap hinit).1 j hj hown)
    · intro hinit
      have hspans := inv_spansAvoid hinv hinit
      exact SpansAvoid.writeBytes (s := s.recordRaces addr bytes.length) hspans _ _
    · have hidle' : s.status.busy = false := hidle
      simp [State.racedAfter, hidle', hraces hidle']
  all_goals exact ⟨hparams, hmem', hstatus', hconfig, hbitmap, hraces⟩

theorem blockReset_params (s : State) : (blockReset s).params = s.params := by
  rw [blockReset, clearRegisters_params]
  split
  next => exact (abandon_same s).params
  next => rfl

theorem blockReset_inv {s : State} (hinv : Inv s) : Inv (blockReset s) := by
  obtain ⟨hparams, hmem, -⟩ := hinv
  refine ⟨?_, blockReset_memoryOk hmem, blockReset_statusOk s, ?_, ?_, fun _ => rfl⟩
  · rw [ParamsOk, blockReset_params]
    exact hparams
  · simp [ConfigOk, blockReset, Status.reset]
  · simp [BitmapOk, blockReset, Status.reset]

theorem step_inv {s t : State} (hinv : Inv s) (hboot : BootOrder s) (hstep : step s = .next t) : Inv t := by
  cases step_effect hstep with
  | idle rest => exact hinv
  | perform rest _ hbusy hturn hperform => exact perform_inv (s := s.withAgenda rest) hinv hbusy hboot hperform
  | reset rest hturn => exact blockReset_inv (s := s.withAgenda rest) hinv
  | host g a rest _ hturn heffect => exact hostEffect_inv (s := s.withAgenda rest) hinv heffect

/-- Settles O58: the perform step keeps the invariant by `exec_inv`, a host write stays off the bitmap's words, and a
reset leaves INIT_DONE 0. -/
theorem stepKeepsInvariant : Obligations.StepKeepsInvariant := fun _ _ => step_inv

/-! ## Which bits a step changes -/

/-- Settles O59: after INIT only the perform step of an allocation or a DEALLOC changes a bit. -/
theorem bitmapBitsChangeOnlyByAllocAndDealloc : Obligations.BitmapBitsChangeOnlyByAllocAndDealloc := by
  intro s t hinv hinit hreset hstep
  have unchanged : SameCfg s t → t.status.initDone = s.status.initDone → (∀ j < 64 * s.numWords, t.bit j = s.bit j) →
      SameCfg s t ∧ t.status.initDone = true ∧ ∀ j < 64 * s.numWords,
        (s.bit j = true → t.bit j = false → ∃ c : SizeClass, Performs c.deallocInstr s) ∧
        (s.bit j = false → t.bit j = true → ∃ c : SizeClass, Performs c.allocInstr s ∨ Performs c.zallocInstr s) :=
    fun hcfg hflag hbits => ⟨hcfg, hflag.trans hinit, fun j hj =>
      ⟨fun h1 h0 => by simp [← hbits j hj, h0] at h1, fun h0 h1 => by simp [← hbits j hj, h1] at h0⟩⟩
  cases step_effect hstep with
  | idle rest => exact unchanged ⟨rfl, rfl, rfl, rfl⟩ rfl fun _ _ => rfl
  | reset rest hturn => exact absurd hturn hreset
  | host g a rest _ hturn heffect =>
    cases heffect
    case arenaWrite addr bytes hin hoff =>
      exact unchanged ⟨rfl, rfl, rfl, rfl⟩ rfl fun j hj => arenaWrite_bit (s := s.withAgenda rest) hinit hoff hj
    all_goals exact unchanged ⟨rfl, rfl, rfl, rfl⟩ rfl fun _ _ => rfl
  | perform rest _ hbusy hturn hperform =>
    rcases perform_next hperform with ⟨e, -, rfl⟩ | ⟨i, hi, hexec⟩
    · exact unchanged ⟨rfl, rfl, rfl, rfl⟩ rfl fun j _ => by
        rw [endPerform_bit, raise_bit]
        rfl
    · have hbit := fun j hj => exec_bit_cases (s := s.withAgenda rest) (j := j) hinv hinit hexec hj
      rcases exec_sameCfg hexec with ⟨hcfg, hflag⟩ | ⟨-, hnot, -⟩
      · refine ⟨hcfg, hflag.trans hinit, fun j hj => ⟨fun h1 h0 => ?_, fun h0 h1 => ?_⟩⟩
        · rcases hbit j hj with hsame | ⟨-, -, htrue⟩ | ⟨c, rfl, -⟩
          · exact absurd (h0.symm.trans (hsame.trans h1)) (by decide)
          · exact absurd (h0.symm.trans htrue) (by decide)
          · exact ⟨c, hbusy, hi, hturn⟩
        · rcases hbit j hj with hsame | ⟨c, rfl | rfl, -⟩ | ⟨-, -, hfalse, -⟩
          · exact absurd (h1.symm.trans (hsame.trans h0)) (by decide)
          · exact ⟨c, .inl ⟨hbusy, hi, hturn⟩⟩
          · exact ⟨c, .inr ⟨hbusy, hi, hturn⟩⟩
          · exact absurd (h1.symm.trans hfalse) (by decide)
      · exact absurd (hinit.symm.trans hnot) (by decide)

/-! ## Under the invariant every command completes (20_memory R55) -/

theorem runPlan_completes {α : Type} {p : Plan α} (h : ∀ f, p ≠ .fault f) (s : State) (go : α → State) :
    ∃ t, runPlan p s go = .next t := by
  cases p with
  | fault f => exact absurd rfl (h f)
  | raise e => exact ⟨_, runPlan_raise e s go⟩
  | go a => exact ⟨_, runPlan_go a s go⟩

theorem planInit_ne_fault (s : State) (f : Fault) : planInit s ≠ .fault f := by
  unfold planInit
  split_ifs <;> simp

theorem planEnc_ne_fault (s : State) (f : Fault) : planEnc s ≠ .fault f := by
  rcases planEnc_cases s with h | h <;> simp [h]

section
variable {s : State} (hinv : Inv s)
include hinv

theorem planAlloc_ne_fault (c : SizeClass) (f : Fault) : planAlloc c s ≠ .fault f := by
  unfold planAlloc
  split_ifs with hinit hcount hsingle harena
  · simp
  · simp
  · simp
  · have hregion := regionFits_of_inv hinv (by simpa using hinit)
    simp [hregion.bitmapInArena le_rfl] at harena
  · split <;> simp

/-- The words that DEALLOC's last check reads are words of tracked frames. -/
theorem planFree_ne_fault (c : SizeClass) (f : Fault) : planFree c s ≠ .fault f := by
  intro h
  unfold planFree at h
  split_ifs at h with hinit hcount hsingle haligned hbase hrange harena
  have hregion := regionFits_of_inv hinv (by simpa using hinit)
  have hwords := hregion.bitmapInArena (m := (s.freeIndex + s.opbNat * framesPer c - 1) / 64 + 1) (by
    have hF := hregion.frames_pos
    have hW := hregion.words_eq
    omega)
  simp [hwords] at harena

theorem exec_completes (i : Instr) : ∃ t, exec i s = .next t := by
  rcases instr_family_cases i with rfl | ⟨c, rfl⟩ | ⟨c, rfl⟩ | ⟨c, rfl⟩ | rfl | rfl
  · exact runPlan_completes (planInit_ne_fault s) s _
  · exact exec_alloc c s ▸ runPlan_completes (planAlloc_ne_fault hinv c) s _
  · rw [exec_zalloc, planZalloc_eq_planAlloc hinv]
    exact runPlan_completes (planAlloc_ne_fault hinv c) s _
  · exact exec_dealloc c s ▸ runPlan_completes (planFree_ne_fault hinv c) s _
  · exact runPlan_completes (planEnc_ne_fault s) s _
  · exact ⟨_, exec_pteDec s⟩

theorem perform_completes : ∃ t, perform s = .next t := by
  cases hdecode : decode s.cmd with
  | error e => exact ⟨endPerform (raise .illegalCommand s), by simp [perform, hdecode, conclude]⟩
  | ok i =>
    obtain ⟨t, ht⟩ := exec_completes hinv i
    exact ⟨t, by simp [perform, hdecode, ht]⟩

theorem step_completes (hbusy : s.status.busy = true) (hagenda : s.agenda = []) :
    ∃ t, step s = .next t ∧ t.status.busy = false ∧ t.status.done = true := by
  obtain ⟨t, ht⟩ := perform_completes hinv
  obtain ⟨hdone, hidle, -⟩ := perform_flags ht
  exact ⟨t, (step_eq_perform hbusy hagenda).trans ht, hidle, hdone⟩

end

/-- Settles O6: no plan faults under the invariant, and a perform step ends with BUSY 0 and DONE 1. -/
theorem engineNeverFaults : Obligations.EngineNeverFaults := fun _ => step_completes

/-- A STATUS poll (30_encoding R91) of a block with a command in flight returns the word and changes nothing else. -/
theorem step_statusPoll {s : State} {g : Nat} {rest : List Move} (ha : s.agenda = statusPoll s.params g :: rest) :
    step s = .next ((s.withAgenda rest).returnRegister s.status.toWord (s.portAfterRead g .status)) :=
  step_regRead (r := .status) (slotOf_index s 3 (by omega)) ha

/-- Settles O7: each poll leaves the invariant, BUSY and the rest of the agenda, and after the last the engine moves. -/
theorem polledCommandIsPerformed : Obligations.PolledCommandIsPerformed := by
  intro n agent
  induction n with
  | zero =>
    intro s hinv hbusy hagenda
    obtain ⟨t, hstep, hends⟩ := step_completes hinv hbusy hagenda
    exact ⟨t, run_succ 0 hstep, hends⟩
  | succ n ih =>
    intro s hinv hbusy hagenda
    rw [List.replicate_succ] at hagenda
    have hstep := step_statusPoll hagenda
    obtain ⟨t, hrun, hends⟩ := ih ((s.withAgenda (List.replicate n (statusPoll s.params agent))).returnRegister
      s.status.toWord (s.portAfterRead agent .status)) hinv hbusy rfl
    exact ⟨t, (run_succ (n + 1) hstep).trans hrun, hends⟩

/-! ## What the engine writes (20_memory R55) -/

/-- The words of a run of tracked frames lie in the region. -/
theorem runWordRange_in_region {s : State} (hregion : RegionFits s) {r : FrameRun}
    (hbelow : r.k + r.n ≤ s.numFrames) : s.base ≤ (s.runWordRange r).1 ∧
      (s.runWordRange r).2 ≤ s.base + 4096 * s.numFrames := by
  have hF := hregion.frames_pos
  simp only [State.runWordRange, State.wordAddr, wordSpread]
  split <;> omega

theorem SameButBytes.numFrames {s t : State} (h : SameButBytes s t) : t.numFrames = s.numFrames := by
  simp [State.numFrames, h.cfgNFrames]

theorem exec_sameBytesOutside_region {i : Instr} {s t : State} (hinv : Inv s) (hexec : exec i s = .next t) :
    SameBytesOutside t.base (t.base + 4096 * t.numFrames) s t := by
  intro a ha
  rcases exec_next hexec with ⟨e, rfl⟩ | ⟨-, p, hplan, rfl⟩ | ⟨c, r, -, hplan, rfl⟩ | ⟨c, r, -, hplan, rfl⟩ |
    ⟨c, r, -, hplan, rfl⟩ | ⟨-, w, -, rfl⟩ | ⟨-, rfl⟩
  · rfl
  · obtain ⟨hp, -⟩ := planInit_go_fits hplan
    obtain ⟨hbase, hframes, -⟩ := applyInit_cfg (s := s) hp
    have hwords := hp.words_le
    rw [endPerform_base, endPerform_numFrames, hbase, hframes] at ha
    exact applyInit_outside hp (by omega)
  · have hfree := planAlloc_go_freeFrames hinv hplan
    obtain ⟨hlow, hhigh⟩ := runWordRange_in_region (regionFits_of_inv hinv hfree.init) hfree.below
    have hsame := setFrames_same s r.k r.n
    rw [endPerform_base, endPerform_numFrames, applyAlloc, finishOk_base, finishOk_numFrames, hsame.base,
      hsame.numFrames] at ha
    rw [endPerform_arenaByte, applyAlloc, finishOk_arenaByte]
    exact arenaByte_outside_runWordRange _ (by omega)
  · have hfree := planAlloc_go_freeFrames hinv (planZalloc_go.1 hplan).1
    obtain ⟨hlow, hhigh⟩ := runWordRange_in_region (regionFits_of_inv hinv hfree.init) hfree.below
    obtain ⟨hfirst, hlast⟩ := hfree.range hinv
    have hsame : SameButBytes s (zeroFill s r (s.setFrames r.k r.n)) :=
      ((setFrames_same s r.k r.n).trans (zeroRange_same _ _ _)).trans (settleRaces_same s _ _ _)
    rw [endPerform_base, endPerform_numFrames, applyZalloc, finishOk_base, finishOk_numFrames, hsame.base,
      hsame.numFrames] at ha
    rw [endPerform_arenaByte, applyZalloc, finishOk_arenaByte, zeroFill_outside _ _ _ (by omega)]
    exact arenaByte_outside_runWordRange _ (by omega)
  · obtain ⟨hinit, -, -, -, -, -, hhigh, -, -, rfl⟩ := planFree_go.1 hplan
    obtain ⟨hlow, hhigh⟩ := runWordRange_in_region (r := ⟨s.freeIndex, s.opbNat * framesPer c⟩)
      (regionFits_of_inv hinv hinit) hhigh
    have hsame := clearFrames_same s s.freeIndex (s.opbNat * framesPer c)
    rw [endPerform_base, endPerform_numFrames, applyFree, finishOk_base, finishOk_numFrames, hsame.base,
      hsame.numFrames] at ha
    rw [endPerform_arenaByte, applyFree, finishOk_arenaByte]
    exact arenaByte_outside_runWordRange (r := ⟨s.freeIndex, s.opbNat * framesPer c⟩) _ (by omega)
  · rfl
  · rfl

/-- Settles O8: every word and frame that a command writes lies in the region, which an INIT has just made. -/
theorem engineWritesOnlyItsRegion : Obligations.EngineWritesOnlyItsRegion := by
  intro s t hinv hbusy hagenda hstep
  rw [step_eq_perform hbusy hagenda] at hstep
  rcases perform_next hstep with ⟨e, -, rfl⟩ | ⟨i, hi, hexec⟩
  · exact fun _ _ => rfl
  · exact exec_sameBytesOutside_region hinv hexec

end Sys2Proof.Machine
end

section
/-! Allocations (41_frame_allocator R108, R113 to R116, R121; 20_memory R57): what a granted run is and who may take it
away, ZALLOC's fill and its races, and freeing what was allocated: O21, O22, O23, O24, O26, O60. -/

namespace Sys2Proof.Machine

open Sys2Proof.Safety

/-! ## Granted runs -/

/-- What a successful ALLOC or ZALLOC of class `c` from `s` to `t` has granted: the run `r`. -/
structure Granted (c : SizeClass) (s t : State) (r : FrameRun) : Prop where
  frames : FreeFrames c s r
  res0 : t.res0.toNat = s.runAddr r
  res1 : t.res1.toNat = r.n
  bits : ∀ j < 64 * s.numWords, t.bit j = (s.bit j || decide (r.k ≤ j ∧ j < r.k + r.n))
  cfg : SameCfg s t
  init : t.status.initDone = true

/-- Under the invariant address and length of a run fit their registers (00_scope R10). -/
theorem FreeFrames.fits {c : SizeClass} {s : State} {r : FrameRun} (hinv : Inv s) (h : FreeFrames c s r) :
    s.runAddr r < 2 ^ 64 ∧ r.n < 2 ^ 64 := by
  have hregion := regionFits_of_inv hinv h.init
  have hend := hregion.end_mem
  have hspace := hregion.end_le
  have hbelow := h.below
  have hpos := h.pos
  rw [State.runAddr]
  omega

theorem applyZalloc_same (s : State) (r : FrameRun) : SameButBytes s (zeroFill s r (s.setFrames r.k r.n)) :=
  ((setFrames_same s r.k r.n).trans (zeroRange_same _ _ _)).trans (settleRaces_same s _ _ _)

/-- What the two families leave alone (60_exceptions R203). -/
theorem applyAlloc_frame (s : State) (r : FrameRun) : Succeeded s (endPerform (applyAlloc s r)) ∧
    SameCfg s (endPerform (applyAlloc s r)) ∧ SameInputs s (endPerform (applyAlloc s r)) :=
  (setFrames_same s r.k r.n).finish _ _ _ _

theorem applyZalloc_frame (s : State) (r : FrameRun) : Succeeded s (endPerform (applyZalloc s r)) ∧
    SameCfg s (endPerform (applyZalloc s r)) ∧ SameInputs s (endPerform (applyZalloc s r)) :=
  (applyZalloc_same s r).finish _ _ _ _

/-- A command whose plan goes on completes with its effect. -/
theorem exec_alloc_of_plan {c : SizeClass} {s : State} {r : FrameRun} (h : planAlloc c s = .go r) :
    exec c.allocInstr s = .next (endPerform (applyAlloc s r)) := by
  rw [exec_alloc, h, runPlan_go]

theorem exec_zalloc_of_plan {c : SizeClass} {s : State} {r : FrameRun} (h : planZalloc c s = .go r) :
    exec c.zallocInstr s = .next (endPerform (applyZalloc s r)) := by
  rw [exec_zalloc, h, runPlan_go]

section
variable {c : SizeClass} {s : State} {r : FrameRun} (hinv : Inv s) (hplan : planAlloc c s = .go r)
include hinv hplan

theorem applyAlloc_granted : Granted c s (endPerform (applyAlloc s r)) r := by
  have hframes := planAlloc_go_freeFrames hinv hplan
  obtain ⟨haddr, hlen⟩ := hframes.fits hinv
  obtain ⟨-, hcfg, -⟩ := applyAlloc_frame s r
  refine ⟨hframes, resultWord_toNat haddr, resultWord_toNat hlen, fun j _ => ?_, hcfg, ?_⟩
  · rw [endPerform_bit, applyAlloc_bit]
  · simp [applyAlloc, (setFrames_same s r.k r.n).status, hframes.init]

theorem applyZalloc_granted : Granted c s (endPerform (applyZalloc s r)) r := by
  have hframes := planAlloc_go_freeFrames hinv hplan
  obtain ⟨haddr, hlen⟩ := hframes.fits hinv
  obtain ⟨-, hcfg, -⟩ := applyZalloc_frame s r
  refine ⟨hframes, resultWord_toNat haddr, resultWord_toNat hlen, fun j hj => ?_, hcfg, ?_⟩
  · rw [endPerform_bit, applyZalloc_bit hinv hframes hj]
  · simp [applyZalloc, (applyZalloc_same s r).status, hframes.init]

end

/-- 41_frame_allocator R108, R114: a command of the two families that ends without ERR has granted a run. -/
theorem exec_granted {c : SizeClass} {i : Instr} {s t : State} (hi : i = c.allocInstr ∨ i = c.zallocInstr)
    (hinv : Inv s) (hexec : exec i s = .next t) (herr : t.status.err = false) :
    ∃ r, planAlloc c s = .go r ∧ Granted c s t r := by
  rcases hi with rfl | rfl
  · rw [exec_alloc] at hexec
    rcases runPlan_next hexec with ⟨e, -, rfl⟩ | ⟨r, hplan, rfl⟩
    · simp at herr
    · exact ⟨r, hplan, applyAlloc_granted hinv hplan⟩
  · rw [exec_zalloc, planZalloc_eq_planAlloc hinv] at hexec
    rcases runPlan_next hexec with ⟨e, -, rfl⟩ | ⟨r, hplan, rfl⟩
    · simp at herr
    · exact ⟨r, hplan, applyZalloc_granted hinv hplan⟩

/-- Settles O23: the granted frames are aligned, tracked, and outside the bitmap. -/
theorem allocatedRunIsAlignedAndInRegion : Obligations.AllocatedRunIsAlignedAndInRegion := by
  intro c i s t hi hinv hexec herr
  obtain ⟨r, -, hgranted⟩ := exec_granted hi hinv hexec herr
  obtain ⟨-, hcount, hpos, habove, hbelow, haligned, -⟩ := hgranted.frames
  rw [hgranted.res0, hgranted.res1, State.runAddr]
  exact ⟨haligned, hcount, by omega, by omega, by omega⟩

/-! ## A granted run is held until a DEALLOC or a reset -/

/-- The run `r` of a region at `base` is marked used in `v`, a state after INIT. -/
structure Held (base : Nat) (r : FrameRun) (v : State) : Prop where
  inv : Inv v
  init : v.status.initDone = true
  base_eq : v.base = base
  below : r.k + r.n ≤ v.numFrames
  used : UsedRun v r.k r.n

theorem Granted.held {c : SizeClass} {s t : State} {r : FrameRun} (h : Granted c s t r) (hinvS : Inv s)
    (hinv : Inv t) : Held s.base r t := by
  obtain ⟨hbase, hframes, -⟩ := sameCfg_numbers h.cfg
  have hwords := (regionFits_of_inv hinvS h.frames.init).words_eq
  have hbelow := h.frames.below
  refine ⟨hinv, h.init, hbase, hframes ▸ hbelow, fun j hj hk => ?_⟩
  rw [h.bits j (by omega), decide_eq_true ⟨hk, hj⟩, Bool.or_true]

/-- 41_frame_allocator R121 item 2: no other step frees a frame. -/
theorem Held.step {base : Nat} {r : FrameRun} {v w : State} (h : Held base r v) (hfrees : FreesNothing v)
    (hstep : step v = .next w) : Held base r w := by
  obtain ⟨hreset, hdealloc⟩ := hfrees
  obtain ⟨hcfg, hinit, hbits⟩ := bitmapBitsChangeOnlyByAllocAndDealloc v w h.inv h.init hreset hstep
  obtain ⟨hbase, hframes, -⟩ := sameCfg_numbers hcfg
  have hwords := (regionFits_of_inv h.inv h.init).words_eq
  have hbelow := h.below
  refine ⟨step_inv h.inv (bootOrder_of_initDone h.init) hstep, hinit, hbase.trans h.base_eq, hframes ▸ hbelow,
    fun j hj hk => ?_⟩
  by_contra hfreed
  obtain ⟨c, hperforms⟩ := (hbits j (by omega)).1 (h.used j hj hk) (Bool.not_eq_true _ ▸ hfreed)
  exact hdealloc c hperforms

theorem Held.run {base : Nat} {r : FrameRun} {n : Nat} {t v : State} (h : Held base r t)
    (hfrees : ∀ m x, m < n → core.run m t = .next x → FreesNothing x) (hrun : core.run n t = .next v) :
    Held base r v := by
  induction n generalizing t with
  | zero =>
    cases hrun
    exact h
  | succ n ih =>
    have hfirst := hfrees 0 t (Nat.succ_pos n) rfl
    cases hstep : Machine.step t with
    | next w =>
      have hlater : ∀ m x, m < n → core.run m w = .next x → FreesNothing x := fun m x hm hx =>
        hfrees (m + 1) x (by omega) ((run_succ m hstep).trans hx)
      exact ih (h.step hfirst hstep) hlater ((run_succ n hstep).symm.trans hrun)
    | fault f => cases ((run_of_step core n t).2.1 f hstep).symm.trans hrun
    | refused f => cases ((run_of_step core n t).2.2 f hstep).symm.trans hrun

/-- A run granted while another is held shares no byte with it. -/
theorem Held.disjoint {base : Nat} {c : SizeClass} {r r' : FrameRun} {v u : State} (h : Held base r v)
    (hpos : r.n ≠ 0) (hgranted : Granted c v u r') : base + 4096 * r.k + 4096 * r.n ≤ u.res0.toNat ∨
      u.res0.toNat + 4096 * u.res1.toNat ≤ base + 4096 * r.k := by
  have hpos' := hgranted.frames.pos
  rw [hgranted.res0, hgranted.res1, State.runAddr, h.base_eq]
  by_contra hmeet
  have hfree := hgranted.frames.free (max r.k r'.k) (by omega) (by omega)
  rw [h.used (max r.k r'.k) (by omega) (by omega)] at hfree
  cases hfree

/-- The perform step of a command, as `exec` of it (20_memory R52). -/
theorem step_of_performs {i : Instr} {s : State} (h : Performs i s) :
    ∃ rest, step s = exec i (s.withAgenda rest) := by
  obtain ⟨hbusy, hi, hnil | hhead⟩ := h
  · exact ⟨s.agenda, by rw [step_nil hnil, engineMove_of_decode hbusy hi, withAgenda_self]⟩
  · obtain ⟨rest, hagenda⟩ := List.head?_eq_some_iff.1 hhead
    exact ⟨rest, by rw [step_engine hagenda, engineMove_of_decode (s := s.withAgenda rest) hbusy hi]⟩

/-- Settles O24: the first run is held until the second is granted, which is free then. -/
theorem allocationsDoNotOverlap : Obligations.AllocationsDoNotOverlap := by
  constructor
  · intro c c' i i' s t u count hi hi' hinv hexec herr hexec' herr'
    obtain ⟨r, -, hgranted⟩ := exec_granted hi hinv hexec herr
    have hinvT := exec_inv_of_initDone hinv hgranted.frames.init hexec
    have hheld := hgranted.held hinv hinvT
    have hheld' : Held s.base r { t with opa := count } :=
      ⟨hheld.inv, hheld.init, hheld.base_eq, hheld.below, hheld.used⟩
    obtain ⟨r', -, hgranted'⟩ := exec_granted hi' hheld'.inv hexec' herr'
    rw [hgranted.res0, hgranted.res1, State.runAddr]
    exact hheld'.disjoint hgranted.frames.pos hgranted'
  · intro c c' i i' n s t v u hi hi' hinv hperforms hstep herr hfrees hrun hperforms' hstep' herr'
    obtain ⟨rest, hexec⟩ := step_of_performs hperforms
    obtain ⟨rest', hexec'⟩ := step_of_performs hperforms'
    rw [hexec] at hstep
    rw [hexec'] at hstep'
    have hinvA : Inv (s.withAgenda rest) := hinv
    obtain ⟨r, -, hgranted⟩ := exec_granted hi hinvA hstep herr
    have hinvT := exec_inv_of_initDone hinvA hgranted.frames.init hstep
    have hheld := (hgranted.held hinvA hinvT).run hfrees hrun
    have hheld' : Held s.base r (v.withAgenda rest') :=
      ⟨hheld.inv, hheld.init, hheld.base_eq, hheld.below, hheld.used⟩
    obtain ⟨r', -, hgranted'⟩ := exec_granted hi' hheld'.inv hstep' herr'
    rw [hgranted.res0, hgranted.res1, State.runAddr]
    exact hheld'.disjoint hgranted.frames.pos hgranted'

/-! ## ZALLOC's fill (41_frame_allocator R113; 20_memory R57) -/

/-- A filled byte no host has written is 0. -/
theorem zeroFill_unraced {before : State} {r : FrameRun} (s : State) {a : Nat} (hlo : before.runAddr r ≤ a)
    (hhi : a < before.runEnd r) (hraced : a ∉ before.raced) : (zeroFill before r s).arenaByte a = 0#8 := by
  rw [zeroFill, settleRaces_outside _ _ _ _ _ (.inl hraced), arenaByte_zeroRange, if_pos ⟨hlo, hhi⟩]

/-- A filled byte that a host has written is 0 or what it was. -/
theorem zeroFill_either {before : State} {r : FrameRun} (s : State) {a : Nat} (hlo : before.runAddr r ≤ a)
    (hhi : a < before.runEnd r) :
    (zeroFill before r s).arenaByte a = 0#8 ∨ (zeroFill before r s).arenaByte a = before.arenaByte a := by
  have hzero := arenaByte_zeroRange s (before.runAddr r) (before.runEnd r) a
  rw [if_pos ⟨hlo, hhi⟩] at hzero
  rw [zeroFill, ← hzero]
  exact settleRaces_either before _ _ _ a

theorem applyZalloc_arenaByte (s : State) (r : FrameRun) (a : Nat) :
    (endPerform (applyZalloc s r)).arenaByte a = (zeroFill s r (s.setFrames r.k r.n)).arenaByte a := by
  rw [endPerform_arenaByte, applyZalloc, finishOk_arenaByte]

/-- ALLOC's checks where the search finds a first fit (41_frame_allocator R108), with or without the invariant. -/
theorem planAlloc_of_firstFit {c : SizeClass} {s : State} {k : Nat} (hinit : s.status.initDone = true)
    (hserved : CountServed c s.opaNat) (hwords : s.bitmapInArena s.numWords = true)
    (hfirst : FirstFit s c s.opaNat k) : planAlloc c s = .go ⟨k, s.opaNat * framesPer c⟩ := by
  obtain ⟨hcount, hsingle⟩ := hserved
  exact planAlloc_go.2 ⟨hinit, hcount, hsingle, hwords, (search_eq_some_iff_firstFit hcount k).2 hfirst, rfl⟩

theorem runAddr_mk (s : State) (k n : Nat) : s.runAddr ⟨k, n⟩ = s.base + 4096 * k := rfl

theorem runEnd_mk (s : State) (k n : Nat) : s.runEnd ⟨k, n⟩ = s.base + 4096 * k + 4096 * n := rfl

/-- Under the invariant ZALLOC completes at the first fit. -/
theorem exec_zalloc_of_firstFit {c : SizeClass} {s : State} {k : Nat} (hinv : Inv s)
    (hinit : s.status.initDone = true) (hserved : CountServed c s.opaNat) (hfirst : FirstFit s c s.opaNat k) :
    planAlloc c s = .go ⟨k, s.opaNat * framesPer c⟩ ∧
      exec c.zallocInstr s = .next (endPerform (applyZalloc s ⟨k, s.opaNat * framesPer c⟩)) := by
  have hwords := (regionFits_of_inv hinv hinit).bitmapInArena le_rfl
  have hplan := planAlloc_of_firstFit hinit hserved hwords hfirst
  exact ⟨hplan, exec_zalloc_of_plan ((planZalloc_eq_planAlloc hinv).trans hplan)⟩

/-- Settles O21: ZALLOC makes ALLOC's checks, sets ALLOC's bits, and with no raced byte its fill is all 0. -/
theorem zallocEffect : Obligations.ZallocEffect := by
  refine ⟨⟨rfl, rfl, rfl, rfl, rfl, rfl⟩, fun c s hinv => ⟨fun hnot => ?_, fun hinit => ⟨fun hzero => ?_,
    fun hc hone => ?_, fun hserved => ⟨fun hnofit => ?_, ?_⟩⟩⟩⟩
  · exact exec_zalloc_failsWith (planZalloc_of_raise (planAlloc_of_not_initDone hnot))
  · exact exec_zalloc_failsWith (planZalloc_of_raise (planAlloc_of_zero hinit hzero))
  · exact exec_zalloc_failsWith (planZalloc_of_raise (planAlloc_of_single hinit hc hone))
  · have hwords := (regionFits_of_inv hinv hinit).bitmapInArena le_rfl
    have hnone := (search_eq_none_iff_noFit hserved.1).2 hnofit
    exact exec_zalloc_failsWith (planZalloc_of_raise (planAlloc_of_search_none hinit hserved hwords hnone))
  · rintro k n lo hi hfirst rfl rfl rfl hunraced
    obtain ⟨hplan, hexec⟩ := exec_zalloc_of_firstFit hinv hinit hserved hfirst
    have hgranted := applyZalloc_granted hinv hplan
    obtain ⟨hok, hcfg, hinputs⟩ := applyZalloc_frame s ⟨k, s.opaNat * framesPer c⟩
    refine ⟨_, hexec, ⟨hgranted.res0, hgranted.res1, rfl, rfl⟩, hok, hgranted.bits, fun a hlo hhi => ?_,
      fun a hframes hwords => ?_, hcfg, hinputs⟩
    · rw [applyZalloc_arenaByte]
      exact zeroFill_unraced _ hlo hhi fun hraced => by
        have hout := hunraced a hraced
        omega
    · rw [applyZalloc_arenaByte, zeroFill_outside _ _ _ hframes]
      exact updateWords_sameBytesOutside s hgranted.frames.pos _ a hwords

/-! ## Bytes and bits -/

/-- From `BASE` on the bytes are the bits. -/
theorem arenaByte_eq_of_bits {s t : State} (hbase : t.base = s.base) {a : Nat} (ha : s.base ≤ a)
    (hbits : ∀ j, j / 8 = a - s.base → t.bit j = s.bit j) : t.arenaByte a = s.arenaByte a := by
  apply BitVec.eq_of_getLsbD_eq
  intro b hb
  have hbit := hbits (8 * (a - s.base) + b) (by omega)
  rw [bit_eq_byte, bit_eq_byte, hbase] at hbit
  rwa [show s.base + (8 * (a - s.base) + b) / 8 = a by omega, show (8 * (a - s.base) + b) % 8 = b by omega] at hbit

theorem bm_eq_of_bits {s t : State} {w : Nat} (hbits : ∀ j, j / 64 = w → t.bit j = s.bit j) : t.bm w = s.bm w := by
  apply BitVec.eq_of_getLsbD_eq
  intro b hb
  have hbit := hbits (64 * w + b) (by omega)
  rwa [State.bit, State.bit, show (64 * w + b) / 64 = w by omega, show (64 * w + b) % 64 = b by omega] at hbit

/-- INIT lays the same bytes whatever a host has raced on: inside its words they are the layout's, outside the
state's. -/
theorem layBitmap_arenaByte_congr {p : InitLayout} (hp : p.Fits) {s s' : State}
    (hbytes : ∀ a, s'.arenaByte a = s.arenaByte a) (a : Nat) :
    (layBitmap p (writeCfg p s')).arenaByte a = (layBitmap p (writeCfg p s)).arenaByte a := by
  have hframes := hp.frames_le
  have hbm := hp.bmFrames_le.trans hframes
  have hbase : ∀ u, (layBitmap p (writeCfg p u)).base = p.start := fun u =>
    (layBitmap_same p _).base.trans (writeCfg_base hp)
  by_cases ha : a < p.start ∨ p.start + 8 * p.words ≤ a
  · rw [arenaByte_layBitmap_outside p _ (writeCfg_base hp) hframes hbm a ha,
      arenaByte_layBitmap_outside p _ (writeCfg_base hp) hframes hbm a ha, writeCfg_arenaByte, writeCfg_arenaByte,
      hbytes]
  · refine arenaByte_eq_of_bits ((hbase s').trans (hbase s).symm) (by rw [hbase]; omega) fun j hj => ?_
    rw [hbase] at hj
    rw [bit_layBitmap p _ (writeCfg_base hp) hframes j (by omega),
      bit_layBitmap p _ (writeCfg_base hp) hframes j (by omega)]

theorem applyInit_arenaByte (s : State) (p : InitLayout) (a : Nat) : (endPerform (applyInit s p)).arenaByte a =
    (settleRaces s p.start (p.start + 8 * p.words) (layBitmap p (writeCfg p s))).arenaByte a := by
  rw [endPerform_arenaByte, applyInit, finishOk_arenaByte, setInitDone_arenaByte]

/-- Settles O22: settling leaves an unraced byte to the engine, and gives any other the engine's value or the host's. -/
theorem racedBytesEndEitherWay : Obligations.RacedBytesEndEitherWay := by
  constructor
  · rintro c s k n hinv hinit hserved hfirst rfl
    obtain ⟨-, hexec⟩ := exec_zalloc_of_firstFit hinv hinit hserved hfirst
    refine ⟨_, hexec, (applyZalloc_frame s _).1, fun a hlo hhi => ?_⟩
    have hend : a < s.runEnd ⟨k, s.opaNat * framesPer c⟩ := by
      rw [runEnd_mk]
      omega
    rw [applyZalloc_arenaByte]
    exact ⟨zeroFill_unraced _ hlo hend, zeroFill_either _ hlo hend⟩
  · intro s hinit hlong haligned hlow hhigh
    have hplan : planInit s = .go (initLayout s.opaNat s.opbNat) :=
      planInit_go.2 ⟨hinit, hlong, haligned, hlow, hhigh, rfl⟩
    have hplan' : planInit { s with raced := [] } = .go (initLayout s.opaNat s.opbNat) := hplan
    obtain ⟨hp, -⟩ := planInit_go_fits hplan
    refine ⟨_, _, by rw [exec_init, hplan, runPlan_go], by rw [exec_init, hplan', runPlan_go], fun a => ?_⟩
    rw [applyInit_arenaByte, applyInit_arenaByte, settleRaces_none { s with raced := [] } _ _ _ rfl,
      layBitmap_arenaByte_congr hp (s := s) (s' := { s with raced := [] }) (fun _ => rfl)]
    exact ⟨fun hraced => settleRaces_outside _ _ _ _ _ (.inl hraced), settleRaces_either _ _ _ _ _⟩

/-! ## Freeing what was allocated -/

/-- Clearing the bits of a run that was free gives back the bits before the run was set. -/
theorem set_clear_bit {s : State} {r : FrameRun} (hfree : FreeRun s r.k r.n) (j : Nat) :
    ((s.bit j || decide (r.k ≤ j ∧ j < r.k + r.n)) && !decide (r.k ≤ j ∧ j < r.k + r.n)) = s.bit j := by
  by_cases hin : r.k ≤ j ∧ j < r.k + r.n
  · simp [hin, hfree j hin.2 hin.1]
  · simp [hin]

/-- The checks of DEALLOC that do not read the bitmap pass for the run `r` (41_frame_allocator R117). -/
structure Freeable (c : SizeClass) (v : State) (r : FrameRun) : Prop where
  inv : Inv v
  init : v.status.initDone = true
  served : CountServed c v.opbNat
  count : r.n = v.opbNat * framesPer c
  addr : v.opaNat = v.base + 4096 * r.k
  aligned : (v.base + 4096 * r.k) % bytesPer c = 0
  above : v.bmFrames ≤ r.k
  below : r.k + r.n ≤ v.numFrames

/-- The last check decides between DoubleFree and the effect. -/
theorem Freeable.dealloc {c : SizeClass} {v : State} {r : FrameRun} (h : Freeable c v r) :
    (¬ UsedRun v r.k r.n → ∃ u, exec c.deallocInstr v = .next u ∧ FailsWith .doubleFree v u) ∧
    (UsedRun v r.k r.n → ∃ u, exec c.deallocInstr v = .next u ∧ Results u 0 r.n 0 0 ∧ Succeeded v u ∧
      (∀ j, u.bit j = (v.bit j && !decide (r.k ≤ j ∧ j < r.k + r.n))) ∧
      SameBytesOutside (wordsLo v r.k) (wordsHi v r.k r.n) v u ∧ SameCfg v u ∧ SameInputs v u) := by
  have haddr := h.addr
  obtain ⟨-, hinit⟩ := deallocEffect.2 c v r.k r.n h.inv (by omega) h.count
  obtain ⟨-, -, hserved⟩ := hinit h.init
  obtain ⟨-, haligned⟩ := hserved h.served
  obtain ⟨-, hrange⟩ := haligned (haddr ▸ h.aligned)
  exact hrange (by omega) h.above h.below

/-- The same DEALLOC can be issued again. -/
theorem Freeable.congr {c : SizeClass} {v u : State} {r : FrameRun} (h : Freeable c v r) (hinv : Inv u)
    (hinit : u.status.initDone = true) (hcfg : SameCfg v u) (hinputs : SameInputs v u) : Freeable c u r := by
  obtain ⟨hbase, hframes, -, hbm⟩ := sameCfg_numbers hcfg
  obtain ⟨-, -, hopa, hopb, -⟩ := hinputs
  have hcount : u.opbNat = v.opbNat := congrArg BitVec.toNat hopb
  have haddr : u.opaNat = v.opaNat := congrArg BitVec.toNat hopa
  refine ⟨hinv, hinit, ?_, ?_, ?_, ?_, hbm ▸ h.above, hframes ▸ h.below⟩
  · rw [hcount]
    exact h.served
  · rw [hcount, h.count]
  · rw [haddr, hbase, h.addr]
  · rw [hbase, h.aligned]

/-- 41_frame_allocator R121 items 3 and 4: a used run is freed, and then the same DEALLOC is a DoubleFree. -/
theorem Freeable.dealloc_twice {c : SizeClass} {v : State} {r : FrameRun} (h : Freeable c v r) (hpos : r.n ≠ 0)
    (hused : UsedRun v r.k r.n) : ∃ u w, exec c.deallocInstr v = .next u ∧ u.status.err = false ∧
      u.res1.toNat = r.n ∧ u.base = v.base ∧ (∀ j, u.bit j = (v.bit j && !decide (r.k ≤ j ∧ j < r.k + r.n))) ∧
      (∀ a < v.base, u.arenaByte a = v.arenaByte a) ∧
      exec c.deallocInstr u = .next w ∧ FailsWith .doubleFree u w := by
  obtain ⟨u, hexec, ⟨-, hres1, -⟩, hok, hbits, hbytes, hcfg, hinputs⟩ := h.dealloc.2 hused
  have hinit : u.status.initDone = true := (congrArg Status.initDone hok).trans h.init
  have hinv := exec_inv_of_initDone h.inv h.init hexec
  have hfreed : ¬ UsedRun u r.k r.n := fun hstill => by
    have hbit := hstill r.k (by omega) le_rfl
    rw [hbits, decide_eq_true ⟨le_rfl, by omega⟩, Bool.not_true, Bool.and_false] at hbit
    cases hbit
  obtain ⟨w, hexecW, hfails⟩ := (h.congr hinv hinit hcfg hinputs).dealloc.1 hfreed
  exact ⟨u, w, hexec, congrArg Status.err hok, hres1, (sameCfg_numbers hcfg).1, hbits,
    fun a ha => hbytes a (.inl (Nat.lt_add_right _ ha)), hexecW, hfails⟩

/-- 41_frame_allocator R121 item 3: the DEALLOC of a granted run passes its checks. -/
theorem Granted.freeable {c : SizeClass} {s t : State} {r : FrameRun} (h : Granted c s t r) (hinv : Inv t)
    (hserved : CountServed c s.opaNat) : Freeable c { t with opa := t.res0, opb := s.opa } r := by
  obtain ⟨hbase, hframes, -, hbm⟩ := sameCfg_numbers h.cfg
  obtain ⟨-, hcount, -, habove, hbelow, haligned, -⟩ := h.frames
  refine ⟨hinv, h.init, hserved, hcount, ?_, ?_, hbm ▸ habove, hframes ▸ hbelow⟩
  · exact h.res0.trans (congrArg (· + 4096 * r.k) hbase.symm)
  · exact hbase ▸ haligned

/-- Settles O26: the DEALLOC passes its checks, for the run is aligned, tracked and used; it clears the bits that the
allocation set, so a second DEALLOC finds the run free. -/
theorem allocThenFreeRestoresThenDoubleFree : Obligations.AllocThenFreeRestoresThenDoubleFree := by
  intro c i s t hi hinv hexec herr
  obtain ⟨r, hplan, hgranted⟩ := exec_granted hi hinv hexec herr
  obtain ⟨hinit, -, hpos, -, -, -, hfree⟩ := hgranted.frames
  have hinvT := exec_inv_of_initDone hinv hinit hexec
  obtain ⟨-, hcount, hsingle, -⟩ := planAlloc_go.1 hplan
  obtain ⟨u, v, hexecU, herrU, hres1, hbaseU, hbitsU, hbytesU, hexecV, hfailsV⟩ :=
    (hgranted.freeable hinvT ⟨hcount, hsingle⟩).dealloc_twice hpos (hgranted.held hinv hinvT).used
  have hbaseT : t.base = s.base := (sameCfg_numbers hgranted.cfg).1
  have hrestored : ∀ j, t.bit j = (s.bit j || decide (r.k ≤ j ∧ j < r.k + r.n)) → u.bit j = s.bit j := fun j hj => by
    have hcleared : u.bit j = (t.bit j && !decide (r.k ≤ j ∧ j < r.k + r.n)) := hbitsU j
    rw [hcleared, hj, set_clear_bit hfree]
  refine ⟨u, v, hexecU, herrU, BitVec.eq_of_toNat_eq (hres1.trans hgranted.res1.symm),
    fun w hw => bm_eq_of_bits fun j hj => hrestored j (hgranted.bits j (by omega)), ?_, hexecV, hfailsV⟩
  rintro rfl a
  rw [exec_alloc_of_plan hplan] at hexec
  cases hexec
  by_cases ha : a < s.base
  · have hset : (endPerform (applyAlloc s r)).arenaByte a = s.arenaByte a := by
      rw [endPerform_arenaByte, applyAlloc, finishOk_arenaByte]
      exact arenaByte_updateWords_below_base s r.k r.n _ ha
    exact (hbytesU a (hbaseT.symm ▸ ha)).trans hset
  · refine arenaByte_eq_of_bits (hbaseU.trans hbaseT) (by omega) fun j _ => hrestored j ?_
    rw [endPerform_bit, applyAlloc_bit]

/-! ## Without the invariant (logs 20, 21) -/

/-- Settles O60: the checks do not read the invariant: ALLOC marks the first fit, and ZALLOC's last check decides
between the fill and the fault. -/
theorem allocationWithoutInvariant : Obligations.AllocationWithoutInvariant := by
  rintro c s k n lo hinit hserved hlow hhigh hfirst rfl rfl
  have hwords : s.bitmapInArena s.numWords = true := (inArena_eq_true_iff s _ _).2 ⟨hlow, hhigh⟩
  have hplan := planAlloc_of_firstFit hinit hserved hwords hfirst
  refine ⟨⟨_, exec_alloc_of_plan hplan, (applyAlloc_frame s _).1, rfl, fun j => ?_⟩, fun hin => ?_, fun hout => ?_⟩
  · rw [endPerform_bit, applyAlloc_bit]
  · have hinside : s.inArena (s.runAddr ⟨k, s.opaNat * framesPer c⟩) (s.runEnd ⟨k, s.opaNat * framesPer c⟩) = true := by
      rw [inArena_eq_true_iff, runEnd_mk, runAddr_mk]
      exact ⟨by omega, hin⟩
    refine ⟨_, exec_zalloc_of_plan (planZalloc_go.2 ⟨hplan, hinside⟩), (applyZalloc_frame s _).1,
      fun a hlo hhi hraced => ?_⟩
    rw [applyZalloc_arenaByte]
    exact zeroFill_unraced _ hlo hhi hraced
  · have houtside :
        s.inArena (s.runAddr ⟨k, s.opaNat * framesPer c⟩) (s.runEnd ⟨k, s.opaNat * framesPer c⟩) = false := by
      rw [← Bool.not_eq_true, inArena_eq_true_iff, runEnd_mk]
      omega
    rw [exec_zalloc, planZalloc, hplan]
    simp only [houtside, if_true, runPlan]

end Sys2Proof.Machine
end

section
/-! What a command neither writes nor, but for OPB, reads (30_encoding R84, R91): a command does the same beside any
agenda, last read and port record, and ALLOC, ZALLOC and PTE.DEC beside any OPB; so the accesses of a script line run
exactly its command: O33, O52. -/

namespace Sys2Proof.Machine

open Sys2Proof.Safety

/-! ## The fields beside a command -/

/-- The fields that no command writes, and that none reads but for OPB. -/
structure Aside where
  opb : Word
  agenda : List Move
  lastRead : HostData
  portUser : Option PortUse

/-- The state with other fields beside the command. -/
def State.withAside (s : State) (w : Aside) : State :=
  { s with opb := w.opb, agenda := w.agenda, lastRead := w.lastRead, portUser := w.portUser }

section
variable (s : State) (w : Aside)

theorem withAside_writeBytes (a : Nat) (bs : List Byte) :
    (s.withAside w).writeBytes a bs = (s.writeBytes a bs).withAside w := rfl

theorem withAside_zeroRange (lo hi : Nat) : (s.withAside w).zeroRange lo hi = (s.zeroRange lo hi).withAside w := rfl

theorem withAside_updateWords (k n : Nat) (f : Nat → Word → Word) :
    (s.withAside w).updateWords k n f = (s.updateWords k n f).withAside w := by
  unfold State.updateWords
  split <;> rfl

theorem withAside_setFrames (k n : Nat) : (s.withAside w).setFrames k n = (s.setFrames k n).withAside w :=
  withAside_updateWords s w k n _

theorem withAside_clearFrames (k n : Nat) : (s.withAside w).clearFrames k n = (s.clearFrames k n).withAside w :=
  withAside_updateWords s w k n _

theorem withAside_layBitmap (p : InitLayout) :
    layBitmap p (writeCfg p (s.withAside w)) = (layBitmap p (writeCfg p s)).withAside w := by
  have hcfg : writeCfg p (s.withAside w) = (writeCfg p s).withAside w := rfl
  rw [layBitmap, layBitmap, hcfg, withAside_zeroRange, withAside_setFrames, withAside_setFrames]

theorem withAside_keepHostBytes (before : State) (addrs : List Nat) :
    keepHostBytes (before.withAside w) addrs (s.withAside w) = (keepHostBytes before addrs s).withAside w := by
  induction addrs generalizing s with
  | nil => rfl
  | cons a rest ih =>
    have hdraw : (before.withAside w).draws = before.draws := rfl
    have hbyte : (before.withAside w).arenaByte a = before.arenaByte a := rfl
    rw [keepHostBytes, keepHostBytes, hdraw, hbyte, withAside_writeBytes]
    split
    · exact ih _
    · exact ih _

theorem withAside_settleRaces (before : State) (lo hi : Nat) :
    settleRaces (before.withAside w) lo hi (s.withAside w) = (settleRaces before lo hi s).withAside w := by
  have hraced : (before.withAside w).racedIn lo hi = before.racedIn lo hi := rfl
  rw [settleRaces, settleRaces, hraced]
  split
  · rfl
  · exact withAside_keepHostBytes { s with draws := before.draws + 1 } w before _

/-! ## The effects beside other fields -/

theorem withAside_applyInit (p : InitLayout) : applyInit (s.withAside w) p = (applyInit s p).withAside w := by
  rw [applyInit, withAside_layBitmap, withAside_settleRaces]
  rfl

theorem withAside_applyAlloc (r : FrameRun) : applyAlloc (s.withAside w) r = (applyAlloc s r).withAside w := by
  rw [applyAlloc, withAside_setFrames]
  rfl

theorem withAside_applyZalloc (r : FrameRun) : applyZalloc (s.withAside w) r = (applyZalloc s r).withAside w := by
  have haddr : (s.withAside w).runAddr r = s.runAddr r := rfl
  have hend : (s.withAside w).runEnd r = s.runEnd r := rfl
  rw [applyZalloc, zeroFill, withAside_setFrames, haddr, hend, withAside_zeroRange, withAside_settleRaces]
  rfl

theorem withAside_applyFree (r : FrameRun) : applyFree (s.withAside w) r = (applyFree s r).withAside w := by
  rw [applyFree, withAside_clearFrames]
  rfl

/-! ## The checks beside other fields -/

/-- ALLOC's checks and search do not read OPB (30_encoding R84). -/
theorem withAside_planAlloc (c : SizeClass) : planAlloc c (s.withAside w) = planAlloc c s := rfl

theorem withAside_planZalloc (c : SizeClass) : planZalloc c (s.withAside w) = planZalloc c s := rfl

variable {w} (hopb : w.opb = s.opb)
include hopb

theorem withAside_opbNat : (s.withAside w).opbNat = s.opbNat := congrArg BitVec.toNat hopb

theorem withAside_planInit : planInit (s.withAside w) = planInit s := by
  rw [planInit, planInit, withAside_opbNat s hopb]
  rfl

theorem withAside_planFree (c : SizeClass) : planFree c (s.withAside w) = planFree c s := by
  rw [planFree, planFree, withAside_opbNat s hopb]
  rfl

theorem withAside_planEnc : planEnc (s.withAside w) = planEnc s := planEnc_congr rfl hopb

end

/-! ## A command beside other fields -/

theorem runPlan_withAside {α : Type} {p p' : Plan α} {s t : State} {go go' : α → State} (w : Aside) (hp : p' = p)
    (hgo : ∀ a, go' a = (go a).withAside w) (h : runPlan p s go = .next t) :
    runPlan p' (s.withAside w) go' = .next (t.withAside w) := by
  subst hp
  rcases runPlan_next h with ⟨e, rfl, rfl⟩ | ⟨a, rfl, rfl⟩
  · rfl
  · rw [runPlan_go, hgo]
    rfl

section
variable {s t : State} {c : SizeClass} (w : Aside)

theorem exec_alloc_withAside (h : exec c.allocInstr s = .next t) :
    exec c.allocInstr (s.withAside w) = .next (t.withAside w) := by
  rw [exec_alloc] at h ⊢
  exact runPlan_withAside w (withAside_planAlloc s w c) (withAside_applyAlloc s w) h

theorem exec_zalloc_withAside (h : exec c.zallocInstr s = .next t) :
    exec c.zallocInstr (s.withAside w) = .next (t.withAside w) := by
  rw [exec_zalloc] at h ⊢
  exact runPlan_withAside w (withAside_planZalloc s w c) (withAside_applyZalloc s w) h

theorem exec_pteDec_withAside (h : exec .pteDec s = .next t) :
    exec .pteDec (s.withAside w) = .next (t.withAside w) := by
  cases h
  rfl

/-- With OPB as it was, every command does the same. -/
theorem exec_withAside {i : Instr} (hopb : w.opb = s.opb) (h : exec i s = .next t) :
    exec i (s.withAside w) = .next (t.withAside w) := by
  rcases instr_family_cases i with rfl | ⟨c, rfl⟩ | ⟨c, rfl⟩ | ⟨c, rfl⟩ | rfl | rfl
  · exact runPlan_withAside w (withAside_planInit s hopb) (withAside_applyInit s w) h
  · exact exec_alloc_withAside w h
  · exact exec_zalloc_withAside w h
  · rw [exec_dealloc] at h ⊢
    exact runPlan_withAside w (withAside_planFree s hopb c) (withAside_applyFree s w) h
  · exact runPlan_withAside w (withAside_planEnc s hopb) (fun _ => rfl) h
  · exact exec_pteDec_withAside w h

end

/-- Settles O33: another OPB is another field beside the command. -/
theorem ignoredOperandHasNoEffect : Obligations.IgnoredOperandHasNoEffect := by
  intro i s t x hi h
  obtain ⟨-, -, -, -, hagenda, hread, hport⟩ := exec_sameInputs h
  have hbeside : { t with opb := x } = t.withAside ⟨x, s.agenda, s.lastRead, s.portUser⟩ := by
    rw [State.withAside, hagenda.symm, hread.symm, hport.symm]
  rw [hbeside]
  rcases hi with rfl | ⟨c, rfl | rfl⟩
  · exact exec_pteDec_withAside ⟨x, s.agenda, s.lastRead, s.portUser⟩ h
  · exact exec_alloc_withAside ⟨x, s.agenda, s.lastRead, s.portUser⟩ h
  · exact exec_zalloc_withAside ⟨x, s.agenda, s.lastRead, s.portUser⟩ h

/-! ## The moves of a line (30_encoding R91) -/

/-- The state in which the stores of a line leave an idle block whose port is free. -/
def State.afterStores (s : State) (g : Nat) (l : Line) (rest : List Move) : State :=
  { s with
    opa := BitVec.ofNat 64 (lineOperandA l)
    opb := (lineOperandB l).elim s.opb (fun b => BitVec.ofNat 64 b)
    cmd := encode (lineInstr l)
    status := s.status.accept
    agenda := rest
    portUser := some { agent := g, accepted := true } }

/-- The state after a store to OPA, or to OPB, that is taken. -/
def State.opaStored (s : State) (g : Nat) (v : Word) (rest : List Move) : State :=
  ((s.withAgenda rest).takeOpa v).holdPort g false

def State.opbStored (s : State) (g : Nat) (v : Word) (rest : List Move) : State :=
  ((s.withAgenda rest).takeOpb v).holdPort g false

/-- An idle block that no other agent's sequence holds takes the agent's stores. -/
def State.TakesFrom (s : State) (g : Nat) : Prop := s.status.busy = false ∧ s.portTaken g = false

theorem takesFrom_of_free {s : State} (g : Nat) (hidle : s.status.busy = false) (hport : s.portUser = none) :
    s.TakesFrom g := ⟨hidle, by simp [State.portTaken, hport]⟩

section
variable {s : State} {g : Nat} {v : Word} {rest : List Move} (hs : s.TakesFrom g)
include hs

/-- The agent that holds the port may go on. -/
theorem opaStored_takesFrom : (s.opaStored g v rest).TakesFrom g :=
  ⟨hs.1, by simp [State.portTaken, State.opaStored]⟩

theorem opbStored_takesFrom : (s.opbStored g v rest).TakesFrom g :=
  ⟨hs.1, by simp [State.portTaken, State.opbStored]⟩

theorem step_opaStore (ha : s.agenda = slotStore s.params g 0x08 v :: rest) :
    step s = .next (s.opaStored g v rest) :=
  (step_opaWrite ha).trans (portWrite_of_free (s := s.withAgenda rest) hs.1 hs.2 _ _)

theorem step_opbStore (ha : s.agenda = slotStore s.params g 0x10 v :: rest) :
    step s = .next (s.opbStored g v rest) :=
  (step_opbWrite ha).trans (portWrite_of_free (s := s.withAgenda rest) hs.1 hs.2 _ _)

theorem step_cmdStore (ha : s.agenda = slotStore s.params g 0x00 v :: rest) :
    step s = .next ((acceptCommand v (s.withAgenda rest)).holdPort g true) :=
  step_cmdWrite_of_idle hs.1 hs.2 ha

end

/-- The stores: OPA, OPB where the command takes it, CMD. -/
theorem run_lineStores {s : State} {g : Nat} {l : Line} {rest : List Move} (hidle : s.status.busy = false)
    (hport : s.portUser = none) (ha : s.agenda = lineStores s.params g l ++ rest) :
    core.run (lineStores s.params g l).length s = .next (s.afterStores g l rest) := by
  have hs := takesFrom_of_free g hidle hport
  unfold State.afterStores
  cases hb : lineOperandB l with
  | none =>
    simp only [lineStores, hb, List.append_nil, List.cons_append, List.nil_append] at ha ⊢
    have hopa := step_opaStore hs ha
    have hs := opaStored_takesFrom (v := BitVec.ofNat 64 (lineOperandA l))
      (rest := slotStore s.params g 0x00 (encode (lineInstr l)) :: rest) hs
    have hcmd := step_cmdStore hs rfl
    exact (run_succ 1 hopa).trans (run_succ 0 hcmd)
  | some b =>
    simp only [lineStores, hb, List.cons_append, List.nil_append] at ha ⊢
    have hopa := step_opaStore hs ha
    have hs := opaStored_takesFrom (v := BitVec.ofNat 64 (lineOperandA l))
      (rest := slotStore s.params g 0x10 (BitVec.ofNat 64 b) :: slotStore s.params g 0x00 (encode (lineInstr l)) :: rest)
      hs
    have hopb := step_opbStore hs rfl
    have hs := opbStored_takesFrom (v := BitVec.ofNat 64 b)
      (rest := slotStore s.params g 0x00 (encode (lineInstr l)) :: rest) hs
    have hcmd := step_cmdStore hs rfl
    exact (run_succ 2 hopa).trans ((run_succ 1 hopb).trans (run_succ 0 hcmd))

/-- The wait loop before the engine's move: the polls change only what the host has read. -/
theorem run_polls {s : State} {g : Nat} {rest : List Move} (n : Nat) (hbusy : s.status.busy = true)
    (ha : s.agenda = List.replicate n (statusPoll s.params g) ++ rest) :
    ∃ d, core.run n s = .next { s with agenda := rest, lastRead := d } := by
  induction n generalizing s with
  | zero => exact ⟨s.lastRead, congrArg Host.Outcome.next (by rw [← show s.agenda = rest from ha])⟩
  | succ n ih =>
    rw [List.replicate_succ, List.cons_append] at ha
    have hport : s.portAfterRead g .status = s.portUser := by simp [State.portAfterRead, hbusy]
    have hstep := step_statusPoll ha
    rw [hport] at hstep
    obtain ⟨d, hrun⟩ := ih (s := (s.withAgenda (List.replicate n (statusPoll s.params g) ++ rest)).returnRegister
      s.status.toWord s.portUser) hbusy rfl
    exact ⟨d, (run_succ n hstep).trans hrun⟩

/-- The run of a line up to the engine's move. -/
theorem run_to_engine {s : State} {g polls : Nat} {l : Line} {rest : List Move} (hidle : s.status.busy = false)
    (hport : s.portUser = none)
    (ha : s.agenda = lineStores s.params g l ++ (List.replicate polls (statusPoll s.params g) ++ rest)) :
    ∃ d, core.run ((lineStores s.params g l).length + polls) s =
      .next { s.afterStores g l rest with lastRead := d } := by
  have hstores := run_lineStores hidle hport ha
  obtain ⟨d, hpolls⟩ := run_polls (g := g) (rest := rest)
    (s := s.afterStores g l (List.replicate polls (statusPoll s.params g) ++ rest)) polls rfl rfl
  exact ⟨d, (run_add core _ polls s _ hstores).trans hpolls⟩

/-- The state in which `exec` of a line's command starts: the line's stores, with no more moves to come. -/
def State.lineStart (s : State) (l : Line) : State :=
  { s with
    opa := BitVec.ofNat 64 (lineOperandA l)
    opb := (lineOperandB l).elim s.opb (fun b => BitVec.ofNat 64 b)
    cmd := encode (lineInstr l)
    status := s.status.accept
    agenda := [] }

theorem lineStart_inv {s : State} (h : Inv s) (l : Line) : Inv (s.lineStart l) := by
  obtain ⟨hparams, hmem, -, hconfig, hbitmap, -⟩ := h
  exact ⟨hparams, hmem, by simp [StatusOk, State.lineStart], hconfig, hbitmap,
    fun hidle => by simp [State.lineStart] at hidle⟩

/-- At the engine's move the host has read `d`, its moves `rest` are to come, and it holds the port. -/
def State.beside (s : State) (g : Nat) (rest : List Move) (d : HostData) : State :=
  s.withAside ⟨s.opb, rest, d, some { agent := g, accepted := true }⟩

theorem afterStores_beside (s : State) (g : Nat) (l : Line) (rest : List Move) (d : HostData) :
    ({ s.afterStores g l (.engine :: rest) with lastRead := d } : State).withAgenda rest =
      (s.lineStart l).beside g rest d := rfl

/-- The engine's move after a line's stores is the line's command beside the moves to come. -/
theorem step_lineEngine {s t : State} {g : Nat} {l : Line} {rest : List Move} {d : HostData}
    (h : exec (lineInstr l) (s.lineStart l) = .next t) :
    step { s.afterStores g l (.engine :: rest) with lastRead := d } = .next (t.beside g rest d) := by
  obtain ⟨-, -, -, hopb, -⟩ := exec_sameInputs h
  have hbusy : ((s.lineStart l).beside g rest d).status.busy = true := rfl
  have hdecode : decode ((s.lineStart l).beside g rest d).cmd = .ok (lineInstr l) := decode_encode (lineInstr l)
  have hagenda : ({ s.afterStores g l (.engine :: rest) with lastRead := d } : State).agenda = .engine :: rest := rfl
  rw [step_engine hagenda, afterStores_beside, engineMove_of_decode hbusy hdecode, State.beside, State.beside, hopb]
  exact exec_withAside _ rfl h

/-- The poll that ends the loop: the holder of the port reads the completion and lets go (log 9). -/
theorem step_lastPoll {t : State} {p : Config.Params} {g : Nat} {d : HostData} (hp : t.params = p)
    (hidle : t.status.busy = false) (hdone : t.status.done = true) (hagenda : t.agenda = []) :
    step (t.beside g [statusPoll p g] d) =
      .next { t with lastRead := .register t.status.toWord, portUser := none } := by
  subst hp
  have hlet : (t.beside g [statusPoll t.params g] d).portAfterRead g .status = none :=
    if_pos ⟨rfl, hidle, hdone, rfl⟩
  rw [step_statusPoll (g := g) (rest := []) rfl, hlet, ← hagenda]
  rfl

theorem lineMoves_length (p : Config.Params) (g polls : Nat) (l : Line) :
    (lineMoves p g polls l).length = (lineStores p g l).length + polls + 2 := by
  simp [lineMoves, Nat.add_assoc]

/-- Settles O52: the stores and the polls leave the command in flight beside the rest of the agenda, the engine's move
is its `exec`, and the last poll reads its STATUS. -/
theorem lineRunsItsCommand : Obligations.LineRunsItsCommand := by
  intro s u l g polls _ hinv hidle hport ha hu
  have hu : u = s.lineStart l := hu
  obtain ⟨t, hexec⟩ := exec_completes (lineStart_inv hinv l) (lineInstr l)
  refine ⟨t, hu ▸ hexec, ?_⟩
  obtain ⟨hparams, -, -, -, hagenda, -⟩ := exec_sameInputs hexec
  obtain ⟨hdone, hbusy, -⟩ := errorChangesNothingElse.2 _ _ _ hexec
  obtain ⟨d, hrun⟩ := run_to_engine (polls := polls) (rest := [.engine, statusPoll s.params g]) hidle hport
    (by rw [ha, lineMoves, List.append_assoc])
  have hengine := step_lineEngine (g := g) (rest := [statusPoll s.params g]) (d := d) hexec
  have hlast := step_lastPoll (g := g) (d := d) hparams hbusy hdone hagenda
  rw [lineMoves_length, run_add core _ 2 s _ hrun, run_succ 1 hengine]
  exact run_succ 0 hlast

end Sys2Proof.Machine
end
